-- ==== Sys2Proof/Word.lean ====
section
/-!
DEFINITION. The word types of the engine (00_scope.md R8): bytes, 16-bit words and the arrays of bytes the spec names.
-/

namespace Sys2Proof

/-- A `u8` of R8: a bus byte, the CRC register, a counter of 8 bits. -/
abbrev Byte := BitVec 8

/-- A `u16` of R8: a host register, a command word. -/
abbrev Word := BitVec 16

/-- The 8-byte device address of R12 and R23: byte 0 is the family byte, byte 7 the CRC byte. -/
abbrev Address := Vector Byte 8

/-- The 9-byte scratchpad of R29. -/
abbrev Scratchpad := Vector Byte 9

end Sys2Proof
end

