-- ==== Sys2Proof/Syntax.lean ====
section
/-!
DEFINITION. The commands of the engine (30_encoding.md R92): one constructor per row of spec/opcode_table.json.
-/

namespace Sys2Proof

/-- A command with its operand (R91): a bit for class B, a byte for class V, an index for class I. -/
inductive Instr
  | nop
  | owReset
  | owWriteBit (b : Bool)
  | owReadBit
  | owWriteByte (v : Byte)
  | owReadByte
  | crcClear
  | crcUpdate (v : Byte)
  | searchFirst
  | searchNext
  | discoverAll
  | select (index : Nat)
  | startConversions
  | readAll
  | updateMinmax
  | advanceClock
  | hourRolled
  | acquireCycle
  | outputUpdate
deriving DecidableEq, Repr

end Sys2Proof
end

