-- ==== Sys2Proof/WellFormed.lean ====
section
/-!
DEFINITION. Which commands can be encoded. The types of the bit and byte operands leave nothing to check; the index of
SELECT must fit the operand byte (30_encoding.md R90, R91 class I).
-/

namespace Sys2Proof

/-- The operand fits the operand byte `a` of R90. -/
def Instr.wellFormed : Instr → Bool
  | .select index => decide (index < 256)
  | .nop | .owReset | .owWriteBit _ | .owReadBit | .owWriteByte _ | .owReadByte | .crcClear | .crcUpdate _
  | .searchFirst | .searchNext | .discoverAll | .startConversions | .readAll | .updateMinmax | .advanceClock
  | .hourRolled | .acquireCycle | .outputUpdate => true

/-- `i.WellFormed`: `i` can be written as one command word. -/
abbrev Instr.WellFormed (i : Instr) : Prop := i.wellFormed = true

end Sys2Proof
end

