-- ==== Sys2Proof/Decode.lean ====
section
/-!
DEFINITION. The command decoder and the encoder (30_encoding.md R90-R96). The decoder is total over all 65536 words: a
word is one command, or ILLEGAL_COMMAND (R93), or BAD_OPERAND (R94).
-/

namespace Sys2Proof

/-- What a command word decodes to (R95). -/
inductive Decoded
  | command (i : Instr)
  | illegalCommand
  | badOperand
deriving DecidableEq, Repr

/-- The field `op`, bits 7:0 (R90). -/
def opField (w : Word) : Byte := w.extractLsb' 0 8

/-- The field `a`, bits 15:8 (R90). -/
def operandField (w : Word) : Byte := w.extractLsb' 8 8

/-- Class N (R91, R94): the operand byte must be 0. -/
def classN (i : Instr) (a : Byte) : Decoded := if a = 0#8 then .command i else .badOperand

/-- Class B (R91, R94): `a[7:1]` must be 0, and the bit is `a[0]`. -/
def classB (f : Bool → Instr) (a : Byte) : Decoded :=
  if a.extractLsb' 1 7 = 0#7 then .command (f (a.getLsbD 0)) else .badOperand

/-- Class V (R91): every byte is legal. -/
def classV (f : Byte → Instr) (a : Byte) : Decoded := .command (f a)

/-- Class I (R91): an unsigned index, whose range the command checks. -/
def classI (f : Nat → Instr) (a : Byte) : Decoded := .command (f a.toNat)

/-- The opcode map of R92. The opcode is looked at before the operand (R94). -/
def decode (w : Word) : Decoded :=
  match (opField w).toNat with
  | 0x00 => classN .nop (operandField w)
  | 0x01 => classN .owReset (operandField w)
  | 0x02 => classB .owWriteBit (operandField w)
  | 0x03 => classN .owReadBit (operandField w)
  | 0x04 => classV .owWriteByte (operandField w)
  | 0x05 => classN .owReadByte (operandField w)
  | 0x06 => classN .crcClear (operandField w)
  | 0x07 => classV .crcUpdate (operandField w)
  | 0x08 => classN .searchFirst (operandField w)
  | 0x09 => classN .searchNext (operandField w)
  | 0x0A => classN .discoverAll (operandField w)
  | 0x0B => classI .select (operandField w)
  | 0x10 => classN .startConversions (operandField w)
  | 0x11 => classN .readAll (operandField w)
  | 0x12 => classN .updateMinmax (operandField w)
  | 0x13 => classN .advanceClock (operandField w)
  | 0x14 => classN .hourRolled (operandField w)
  | 0x15 => classN .acquireCycle (operandField w)
  | 0x18 => classN .outputUpdate (operandField w)
  | _ => .illegalCommand

/-- The instruction the decoder reads from a table word of `nbits` bits (bits above `nbits` are 0). -/
def decodeTableWord (nbits w : Nat) : Option Instr :=
  match decode (BitVec.ofNat 16 (w % 2 ^ nbits)) with
  | .command i => some i
  | .illegalCommand => none
  | .badOperand => none

/-- The opcode column of R92. -/
def opcode : Instr → Byte
  | .nop => 0x00
  | .owReset => 0x01
  | .owWriteBit _ => 0x02
  | .owReadBit => 0x03
  | .owWriteByte _ => 0x04
  | .owReadByte => 0x05
  | .crcClear => 0x06
  | .crcUpdate _ => 0x07
  | .searchFirst => 0x08
  | .searchNext => 0x09
  | .discoverAll => 0x0A
  | .select _ => 0x0B
  | .startConversions => 0x10
  | .readAll => 0x11
  | .updateMinmax => 0x12
  | .advanceClock => 0x13
  | .hourRolled => 0x14
  | .acquireCycle => 0x15
  | .outputUpdate => 0x18

/-- The operand byte of R91. An index of SELECT above 255 has no encoding; taking its low byte is a DESIGN CHOICE
(log 20). -/
def operandByte : Instr → Byte
  | .owWriteBit b => (BitVec.ofBool b).setWidth 8
  | .owWriteByte v => v
  | .crcUpdate v => v
  | .select index => BitVec.ofNat 8 index
  | .nop | .owReset | .owReadBit | .owReadByte | .crcClear | .searchFirst | .searchNext | .discoverAll
  | .startConversions | .readAll | .updateMinmax | .advanceClock | .hourRolled | .acquireCycle | .outputUpdate => 0

/-- The assembled word of R96: `(operand << 8) | op`. -/
def encode (i : Instr) : Word := operandByte i ++ opcode i

end Sys2Proof
end

