-- ==== Sys2Proof/Config.lean ====
section
/-!
DEFINITION. What a build of the block fixes (00_scope.md R6) and the values the spec leaves free (R68, R118).
-/

namespace Sys2Proof

/-- The observable bus events of R118: `RESET(presence)`, `W0`/`W1`, `R(bit)`. -/
inductive BusEvent
  | reset (presence : Bool)
  | write (b : Bool)
  | read (b : Bool)
deriving DecidableEq, Repr

/-- CH1_SOURCE of R6: which sensors feed output channel 1 (R203). -/
inductive Ch1Source
  | either
  | sensor0
  | sensor1
deriving DecidableEq, Repr

/-- CRC_FORM of R6: the register form of the CRC accumulator (R120). -/
inductive CrcForm
  | msb31
  | lsb8c
deriving DecidableEq, Repr

/-- TEMP_ROUNDING of R6: the rounding of the conversion (R171). -/
inductive TempRounding
  | towardZero
  | floor
deriving DecidableEq, Repr

/-- The phase durations T_A .. T_J of R111, in microseconds. -/
structure Timing where
  tA : Nat := 6
  tB : Nat := 64
  tC : Nat := 60
  tD : Nat := 10
  tE : Nat := 9
  tF : Nat := 55
  tG : Nat := 0
  tH : Nat := 480
  tI : Nat := 70
  tJ : Nat := 410
deriving DecidableEq, Repr

/-- The parameters of R6. Defaults are the spec's; DIR_CAP, N1 and N2 have none (OPEN). -/
structure Build where
  dirCap : Nat
  n1 : Nat
  n2 : Nat
  ch1Source : Ch1Source := .either
  crcForm : CrcForm := .msb31
  tempRounding : TempRounding := .towardZero
  cmdSearch : Byte := 0xF0
  cmdMatch : Byte := 0x55
  cmdSkip : Byte := 0xCC
  cmdConvert : Byte := 0x44
  cmdReadSp : Byte := 0xBE
  leapPeriod : Nat := 3
  timing : Timing := {}
deriving DecidableEq, Repr

/-- The ranges of R6: 1 <= DIR_CAP <= 16, 1 <= N1 <= N2 <= 256, LEAP_PERIOD >= 1. -/
abbrev Build.Valid (b : Build) : Prop :=
  1 ≤ b.dirCap ∧ b.dirCap ≤ 16 ∧ 1 ≤ b.n1 ∧ b.n1 ≤ b.n2 ∧ b.n2 ≤ 256 ∧ 1 ≤ b.leapPeriod

/-- The build of `State.reset`: the spec's defaults, with DIR_CAP, N1 and N2 a DESIGN CHOICE (log 2).
No statement rests on these three values. -/
def Config.build : Build := { dirCap := 2, n1 := 30, n2 := 30 }

/-- FREE VALUE (R118, I9; log 3). The level (true = high) that an unscripted bus environment lets the line
take at the next sample, given every earlier bus event, newest first. No body: nothing constrains it. It is one level for
both kinds of sample, a presence sample and a read slot: DESIGN CHOICE (log 3). -/
opaque Config.lineSample : List BusEvent → Bool

/-- FREE VALUE (R68, I7; log 6). The pattern that setpoint register `i` holds after the `n`-th power-on and before
the host writes it. No body: nothing constrains it; the read clamps it to the channel's range. -/
opaque Config.unloadedSetpoint : Nat → Fin 4 → Byte

end Sys2Proof
end

