-- ==== Sys2Proof/Machine/State.lean ====
section
/-!
DEFINITION. The state of the engine (10_state.md), the agents' data the model carries beside it (R11, R80, R118), the
reasons a step can stop, and the state after power-on (70_reset_and_hazards.md R260).
-/

namespace Sys2Proof.Machine

/-- The error codes 0 to 9 of R232. Codes 10 to 15 are never written, so no constructor stands for them (log 17). -/
inductive Err
  | ok
  | busTimeout
  | checksumMismatch
  | directoryFull
  | invalidReading
  | searchNoDevice
  | searchExhausted
  | badIndex
  | illegalCommand
  | badOperand
deriving DecidableEq, Repr

/-- The two sensor channels 0 and 1 (R12). -/
inductive Sensor
  | s0
  | s1
deriving DecidableEq, Repr

/-- The two output channels 1 and 2 (R12). -/
inductive Chan
  | c1
  | c2
deriving DecidableEq, Repr

/-- One value for each sensor channel. -/
structure PerSensor (α : Type) where
  s0 : α
  s1 : α
deriving DecidableEq, Repr

/-- One value for each output channel. -/
structure PerChan (α : Type) where
  c1 : α
  c2 : α
deriving DecidableEq, Repr

/-- One history slot (R33): the least and the greatest valid reading of an hour, as s16 patterns. -/
structure HistSlot where
  lo : Word
  hi : Word
deriving DecidableEq, Repr

/-- TEMP, VALID, CAUSE and HIST of one sensor channel (R30-R33). -/
structure SensorChan where
  temp : Word
  valid : Bool
  cause : Err
  hist : Vector HistSlot 24
deriving DecidableEq, Repr

/-- CUR, CNT, ST1 and ST2 of one output channel (R40-R43). -/
structure OutChan where
  cur : Bool
  cnt : Byte
  st1 : Bool
  st2 : Bool
deriving DecidableEq, Repr

/-- The three slots of one search position, as a device sees them (95_test_vectors.md, reference device model, 3). -/
inductive SearchTurn
  | bit
  | complement
  | direction
deriving DecidableEq, Repr

/-- The protocol state of a reference device (95_test_vectors.md, reference device model). -/
inductive Proto
  | idle
  | romCommand (got : Nat) (v : Byte)
  | search (p : Nat) (turn : SearchTurn)
  | matching (p : Nat)
  | function (got : Nat) (v : Byte)
  | reading (k : Nat)
deriving DecidableEq, Repr

/-- A reference device (95_test_vectors.md, reference device model; K9). It is part of the bus environment, not of the
block (R5). -/
structure Device where
  rom : Address
  queue : List Word
  temp : Word
  pend : Option Word
  active : Bool
  proto : Proto
deriving DecidableEq, Repr

/-- MODEL: the bus environment (R118) as plain data. A script lists the line levels of the next samples (true = high)
and, once used up, answers with the free value `Config.lineSample` of the bus trace. `held` is a line stuck low, and
`devices []` the empty bus (95_test_vectors.md). -/
inductive BusEnv
  | script (answers : List Bool)
  | held
  | devices (ds : List Device)
deriving DecidableEq, Repr

/-- The bus line: LINE_DRV (R21), and the MODEL's own record of the environment and of the bus trace, newest event
first (R118; log 3). -/
structure Wire where
  drv : Bool
  env : BusEnv
  trace : List BusEvent
deriving DecidableEq, Repr

/-- MODEL: one turn of one agent (R11, R80): a host access (R61), a tick (R234), the engine's turn to start an automatic
cycle (R235), power-on (R260), or a change of the devices on the bus (I13, R268). -/
inductive Turn
  | hostRead (addr : Byte)
  | hostWrite (addr : Byte) (v : Word)
  | tick
  | autoCycle
  | powerOn
  | busChange (env : BusEnv)
deriving DecidableEq, Repr

/-- Why a step faults. -/
inductive Fault
  /-- "setpoint used before load" (R208, R210): raised by OUTPUT_UPDATE, ACQUIRE_CYCLE and the automatic cycle while some
  SP_LOADED[i] = 0. Safe: the spec itself gives the model no meaning there. -/
  | setpointBeforeLoad
deriving DecidableEq, Repr

/-- Why a step is refused. -/
inductive Refusal
  /-- Raised by `exec` for a command that has no meaning yet (none is left). Safe. -/
  | notModelled (mnemonic : String)
deriving DecidableEq, Repr

end Sys2Proof.Machine

namespace Sys2Proof.Machine

/-- The state. Fields up to `lastCmd` are 10_state.md R21-R48 in order; the last four are the MODEL's own. -/
structure State where
  wire : Wire
  crc : Byte
  rom : Address
  ld : Nat
  ldf : Bool
  found : Bool
  dirCount : Nat
  dir : List Address
  scratch : Scratchpad
  sensor : PerSensor SensorChan
  histIdx : Fin 24
  hoursSeen : Nat
  sec : Nat
  minute : Nat
  hour : Nat
  leap : Nat
  sp : Vector Byte 4
  spLoaded : Vector Bool 4
  out : PerChan OutChan
  auto : Bool
  ticks : Byte
  err : Err
  presence : Bool
  hourRolled : Bool
  result : Word
  lastCmd : Word
  build : Build
  sched : List Turn
  readData : Word
  powerOns : Nat
deriving DecidableEq, Repr

/-- The history sentinels (+inf, -inf) of R33: 32767 and -32768. -/
def HistSlot.empty : HistSlot := { lo := 0x7FFF, hi := 0x8000 }

/-- A sensor channel after power-on (R30-R33). -/
def SensorChan.powerOn : SensorChan :=
  { temp := 0, valid := false, cause := .invalidReading, hist := Vector.replicate 24 HistSlot.empty }

/-- An output channel after power-on (R40-R43). -/
def OutChan.powerOn : OutChan := { cur := false, cnt := 0, st1 := false, st2 := false }

/-- Power-on of a given build (R260). The bus environment, the trace, the schedule, the read data and the count of
power-ons are the model's own, here those of a block just built. SCRATCH and SP are unspecified (R29, R38): the zeros are
a DESIGN CHOICE that nothing shows (log 6, log 7). -/
def State.powerOn (b : Build) : State where
  wire := { drv := false, env := .script [], trace := [] }
  crc := 0
  rom := Vector.replicate 8 0
  ld := 0
  ldf := false
  found := false
  dirCount := 0
  dir := List.replicate b.dirCap (Vector.replicate 8 0)
  scratch := Vector.replicate 9 0
  sensor := { s0 := SensorChan.powerOn, s1 := SensorChan.powerOn }
  histIdx := 0
  hoursSeen := 0
  sec := 0
  minute := 0
  hour := 0
  leap := 0
  sp := Vector.replicate 4 0
  spLoaded := Vector.replicate 4 false
  out := { c1 := OutChan.powerOn, c2 := OutChan.powerOn }
  auto := false
  ticks := 0
  err := .ok
  presence := false
  hourRolled := false
  result := 0
  lastCmd := 0
  build := b
  sched := []
  readData := 0
  powerOns := 0

/-- The machine right after reset (R260), for the build `Config.build` (log 2). -/
def State.reset : State := State.powerOn Config.build

end Sys2Proof.Machine
end

