-- ==== Sys2Proof/Machine/Bits.lean ====
section
/-!
DEFINITION. Bits of bytes, bit positions of addresses, the CRC-8 fold and the s16 helpers (20_memory.md R74-R77,
40_bus_primitives.md R120, 42_acquisition.md R170, R171).
-/

namespace Sys2Proof.Machine

/-- The bits of a byte, least significant first (R74). -/
def byteBits (v : Byte) : List Bool :=
  [v.getLsbD 0, v.getLsbD 1, v.getLsbD 2, v.getLsbD 3, v.getLsbD 4, v.getLsbD 5, v.getLsbD 6, v.getLsbD 7]

/-- The byte whose bits, least significant first, are given (R74, R116). -/
def byteOfBits : List Bool → Byte
  | [] => 0
  | b :: bs => (byteOfBits bs <<< 1) ||| (BitVec.ofBool b).setWidth 8

/-- `v` with bit `j` set to `d`. -/
def setByteBit (v : Byte) (j : Nat) (d : Bool) : Byte :=
  if d then v ||| (1#8 <<< j) else v &&& ~~~(1#8 <<< j)

/-- Bit position `p` (1..64) of an address: bit `(p-1) mod 8` of byte `(p-1) div 8` (R23, R75). -/
def romBit (r : Address) (p : Nat) : Bool :=
  (r.getD ((p - 1) / 8) 0).getLsbD ((p - 1) % 8)

/-- The address with bit position `p` set to `d` (R23, R75). -/
def setRomBit (r : Address) (p : Nat) (d : Bool) : Address :=
  r.setIfInBounds ((p - 1) / 8) (setByteBit (r.getD ((p - 1) / 8) 0) ((p - 1) % 8) d)

/-- One bit of the CRC fold, in either register form (R120). -/
def crcBit (form : CrcForm) (acc : Byte) (b : Bool) : Byte :=
  match form with
  | .msb31 => if acc.getLsbD 7 ^^ b then (acc <<< 1) ^^^ 0x31 else acc <<< 1
  | .lsb8c => if acc.getLsbD 0 ^^ b then (acc >>> 1) ^^^ 0x8C else acc >>> 1

/-- `CrcStep(acc, byte)` of R120. -/
def crcStep (form : CrcForm) (acc v : Byte) : Byte :=
  (byteBits v).foldl (crcBit form) acc

/-- The fold of a byte sequence from `acc` (R121). -/
def crcFold (form : CrcForm) (acc : Byte) (vs : List Byte) : Byte :=
  vs.foldl (crcStep form) acc

/-- `bitrev8` of R120. -/
def bitrev8 (v : Byte) : Byte := byteOfBits (byteBits v).reverse

/-- The combined temperature bytes (R76, R170): high byte SCRATCH[1], low byte SCRATCH[0]. -/
def rawTemp (sp : Scratchpad) : Word := sp.getD 1 0 ++ sp.getD 0 0

/-- `Convert(raw)` of R171: `10 * raw / 16`, exact, rounded as the build says. -/
def convert (rounding : TempRounding) (raw : Word) : Word :=
  match rounding with
  | .towardZero => BitVec.ofInt 16 (Int.tdiv (10 * raw.toInt) 16)
  | .floor => BitVec.ofInt 16 (Int.fdiv (10 * raw.toInt) 16)

/-- The lesser of two s16 patterns. -/
def sMin (a b : Word) : Word := if a.toInt ≤ b.toInt then a else b

/-- The greater of two s16 patterns. -/
def sMax (a b : Word) : Word := if a.toInt ≤ b.toInt then b else a

/-- The 16-bit register value of a Boolean (R92 `zext`). -/
def zextBool (b : Bool) : Word := (BitVec.ofBool b).setWidth 16

/-- `sat8(x + 1)` of R9 on an 8-bit counter. -/
def satInc (c : Byte) : Byte := if c = 0xFF then 0xFF else c + 1

/-- The value of a sensor channel. -/
def PerSensor.get {α : Type} (x : PerSensor α) : Sensor → α
  | .s0 => x.s0
  | .s1 => x.s1

/-- `x` with the value of one sensor channel changed by `f`. -/
def PerSensor.modify {α : Type} (x : PerSensor α) (ch : Sensor) (f : α → α) : PerSensor α :=
  match ch with
  | .s0 => { x with s0 := f x.s0 }
  | .s1 => { x with s1 := f x.s1 }

/-- `f` on both sensor channels. -/
def PerSensor.map {α β : Type} (f : α → β) (x : PerSensor α) : PerSensor β := { s0 := f x.s0, s1 := f x.s1 }

/-- The directory slot that feeds a sensor channel (R28). -/
def Sensor.slot : Sensor → Nat
  | .s0 => 0
  | .s1 => 1

end Sys2Proof.Machine
end

