-- ==== Sys2Proof/Machine/Flags.lean ====
section
/-!
DEFINITION. The numbers of the error codes (60_exceptions.md R232) and the packed status registers (20_memory.md R62:
STATUS, VALID, OUT, CNT, SEARCH), with the flag values that commands derive.
-/

namespace Sys2Proof.Machine

/-- The 4-bit code of R232. -/
def Err.code : Err → BitVec 4
  | .ok => 0
  | .busTimeout => 1
  | .checksumMismatch => 2
  | .directoryFull => 3
  | .invalidReading => 4
  | .searchNoDevice => 5
  | .searchExhausted => 6
  | .badIndex => 7
  | .illegalCommand => 8
  | .badOperand => 9

/-- STATUS (R62): [3:0] ERR, [4] PRESENCE, [5] FOUND, [6] HOUR_ROLLED. -/
def statusWord (s : State) : Word :=
  0#9 ++ BitVec.ofBool s.hourRolled ++ BitVec.ofBool s.found ++ BitVec.ofBool s.presence ++ s.err.code

/-- SEARCH (R62): [6:0] LD, [8] LDF. -/
def searchWord (s : State) : Word :=
  0#7 ++ BitVec.ofBool s.ldf ++ 0#1 ++ BitVec.ofNat 7 s.ld

/-- The two validity flags, channel 0 in bit 0 (R92 READ_ALL, R180). -/
def validBits (s : State) : Word :=
  0#14 ++ BitVec.ofBool s.sensor.s1.valid ++ BitVec.ofBool s.sensor.s0.valid

/-- VALID (R62): [0] VALID[0], [1] VALID[1], [11:8] CAUSE[0], [15:12] CAUSE[1]. -/
def validWord (s : State) : Word :=
  s.sensor.s1.cause.code ++ s.sensor.s0.cause.code ++ 0#6
    ++ BitVec.ofBool s.sensor.s1.valid ++ BitVec.ofBool s.sensor.s0.valid

/-- OUT (R62): ST1[1], ST1[2], ST2[1], ST2[2], CUR[1], CUR[2] from bit 0 up. -/
def outWord (s : State) : Word :=
  0#10 ++ BitVec.ofBool s.out.c2.cur ++ BitVec.ofBool s.out.c1.cur
    ++ BitVec.ofBool s.out.c2.st2 ++ BitVec.ofBool s.out.c1.st2
    ++ BitVec.ofBool s.out.c2.st1 ++ BitVec.ofBool s.out.c1.st1

/-- CNT (R62): channel 1 in bits 7:0, channel 2 in bits 15:8. -/
def cntWord (s : State) : Word := s.out.c2.cnt ++ s.out.c1.cnt

/-- ERR of READ_ALL and ACQUIRE_CYCLE (R174): channel 0's cause first, then channel 1's. -/
def readErr (s : State) : Err :=
  if s.sensor.s0.cause = .ok then s.sensor.s1.cause else s.sensor.s0.cause

/-- Pin OUT1 (R241). -/
def pinOut1 (s : State) : Bool := s.out.c1.st1

/-- Pin OUT2 (R241). -/
def pinOut2 (s : State) : Bool := s.out.c2.st1

/-- The block drives DQ low (R241). -/
def pinDqLow (s : State) : Bool := s.wire.drv

end Sys2Proof.Machine
end

