-- ==== Sys2Proof/Machine/Operands.lean ====
section
/-!
DEFINITION. The operand forms: a directory index (41_search_directory.md R151), a setpoint and its clamp (20_memory.md
R68), a history offset (R73). The encoded operand classes N, B, V and I are in Decode.lean (R91).
-/

namespace Sys2Proof.Machine

/-- The directory entry of an index (R151). Out of the array, which no run reaches, it is all zero (log 15). -/
def State.dirEntry (s : State) (i : Nat) : Address := s.dir.getD i (Vector.replicate 8 0)

/-- The range of setpoint `i` (R38, R68): [-10, 100] for channel 1, [0, 100] for channel 2. -/
def setpointLow (i : Fin 4) : Int := if i.val < 2 then -10 else 0

/-- The clamp of R68: `min(max(s, lo), hi)`. -/
def clampSetpoint (i : Fin 4) (v : Int) : Byte := BitVec.ofInt 8 (min (max v (setpointLow i)) 100)

/-- A threshold in tenths of a degree (R200): `10 * SP[i]`. -/
def threshold (s : State) (i : Fin 4) : Int := 10 * s.sp[i].toInt

/-- All four setpoints have been written since power-on (R39, R210). -/
def State.setpointsLoaded (s : State) : Bool :=
  s.spLoaded[0] && s.spLoaded[1] && s.spLoaded[2] && s.spLoaded[3]

/-- The history slot of an hour-offset (R73): `(HIST_IDX - off) mod 24`. -/
def histSlotAt (s : State) (off : Nat) : Fin 24 := s.histIdx - Fin.ofNat 24 off

end Sys2Proof.Machine
end

