-- ==== Sys2Proof/Machine/Devices.lean ====
section
/-!
DEFINITION. The bus environment (40_bus_primitives.md R110, R118): what level the devices leave the line at when the
engine samples it, and how the environment goes on after a bus event. The reference devices follow 95_test_vectors.md,
section 1 (PRESUMED, K9; log 4). Nothing here reads engine state.
-/

namespace Sys2Proof.Machine

/-- The scratchpad a device drives: temperature low, high, 4B 46 7F FF 0C 10, and the LSB8C CRC of those eight. -/
def Device.scratchBytes (d : Device) : List Byte :=
  let body : List Byte := [d.temp.extractLsb' 0 8, d.temp.extractLsb' 8 8, 0x4B, 0x46, 0x7F, 0xFF, 0x0C, 0x10]
  body ++ [crcFold .lsb8c 0 body]

/-- The level a device lets the line take in a read slot (true = released). -/
def Device.releases (d : Device) : Bool :=
  if d.active then
    match d.proto with
    | .search p .bit => romBit d.rom p
    | .search p .complement => !romBit d.rom p
    | .search _ .direction => true
    | .reading k => (d.scratchBytes.getD (k / 8) 0xFF).getLsbD (k % 8)
    | .idle => true
    | .romCommand _ _ => true
    | .matching _ => true
    | .function _ _ => true
  else true

/-- A device after it has collected a ROM command byte. -/
def Device.onRomCommand (d : Device) (v : Byte) : Device :=
  if v = 0xF0 then { d with proto := .search 1 .bit }
  else if v = 0x55 then { d with proto := .matching 1 }
  else if v = 0xCC then { d with proto := .function 0 0 }
  else { d with active := false, proto := .idle }

/-- A device after a convert command: the pending sample becomes visible, the next one is pending. -/
def Device.onConvert (d : Device) : Device :=
  let temp := d.pend.getD d.temp
  { d with temp := temp, pend := some (d.queue.headD temp), queue := d.queue.tail, proto := .idle }

/-- A device after it has collected a function command byte. -/
def Device.onFunction (d : Device) (v : Byte) : Device :=
  if v = 0x44 then d.onConvert
  else if v = 0xBE then { d with proto := .reading 0 }
  else { d with active := false, proto := .idle }

/-- An active device after a write slot. A slot that its protocol state does not await changes nothing. -/
def Device.onWrite (d : Device) (b : Bool) : Device :=
  match d.proto with
  | .romCommand got v =>
    if got = 7 then d.onRomCommand (setByteBit v got b) else { d with proto := .romCommand (got + 1) (setByteBit v got b) }
  | .search p .direction =>
    if b = romBit d.rom p then
      { d with proto := if p = 64 then .idle else .search (p + 1) .bit }
    else { d with active := false, proto := .idle }
  | .matching p =>
    if b = romBit d.rom p then
      { d with proto := if p = 64 then .function 0 0 else .matching (p + 1) }
    else { d with active := false, proto := .idle }
  | .function got v =>
    if got = 7 then d.onFunction (setByteBit v got b) else { d with proto := .function (got + 1) (setByteBit v got b) }
  | .search _ .bit => d
  | .search _ .complement => d
  | .reading _ => d
  | .idle => d

/-- An active device after a read slot. -/
def Device.onRead (d : Device) : Device :=
  match d.proto with
  | .search p .bit => { d with proto := .search p .complement }
  | .search p .complement => { d with proto := .search p .direction }
  | .reading k => { d with proto := if k = 71 then .idle else .reading (k + 1) }
  | .search _ .direction => d
  | .romCommand _ _ => d
  | .matching _ => d
  | .function _ _ => d
  | .idle => d

/-- A device after a bus event. -/
def Device.after (ev : BusEvent) (d : Device) : Device :=
  match ev with
  | .reset _ => { d with active := true, proto := .romCommand 0 0 }
  | .write b => if d.active then d.onWrite b else d
  | .read _ => if d.active then d.onRead else d

/-- The environment's answer to a sample: a script's next entry, or the free value once it has run out; low on a stuck
line; otherwise what the devices do (`atDevices`). R118 names two draws, for the presence sample and for a read slot. That
a script's next entry and the free value answer whichever of the two comes next, with the same level, is a DESIGN CHOICE
(log 3). -/
def BusEnv.answer (e : BusEnv) (trace : List BusEvent) (atDevices : List Device → Bool) : Bool :=
  match e with
  | .script [] => Config.lineSample trace
  | .script (a :: _) => a
  | .held => false
  | .devices ds => atDevices ds

/-- The level at the presence sample (R112): low iff at least one device is there. -/
def BusEnv.presenceLevel (e : BusEnv) (trace : List BusEvent) : Bool :=
  e.answer trace (fun ds => ds.isEmpty)

/-- The level at the sample of a read slot (R114): high iff every device releases the line. -/
def BusEnv.readLevel (e : BusEnv) (trace : List BusEvent) : Bool :=
  e.answer trace (fun ds => ds.all Device.releases)

/-- The environment after a bus event. A sample uses up one entry of a script. -/
def BusEnv.after (e : BusEnv) (ev : BusEvent) : BusEnv :=
  match e, ev with
  | .script l, .reset _ => .script l.tail
  | .script l, .read _ => .script l.tail
  | .script l, .write _ => .script l
  | .held, _ => .held
  | .devices ds, ev => .devices (ds.map (Device.after ev))

/-- A device as the vectors start it (95_test_vectors.md, section 1): `T` = 0x0550, no conversion pending. -/
def Device.fresh (rom : Address) (queue : List Word) : Device :=
  { rom := rom, queue := queue, temp := 0x0550, pend := none, active := false, proto := .idle }

end Sys2Proof.Machine
end

