-- ==== Sys2Proof/Machine/Ops.lean ====
section
/-!
DEFINITION. The operations every command is made of: the line and the bus primitives (40_bus_primitives.md R110-R118),
and the one way a command ends, which is also `raise E` (60_exceptions.md R230, R231). The block has no trap entry and no
return from one (R230).
-/

namespace Sys2Proof.Machine

/-- `drive_low()` (R110). -/
def Wire.driveLow (w : Wire) : Wire := { w with drv := true }

/-- `release()` (R110). -/
def Wire.release (w : Wire) : Wire := { w with drv := false }

/-- `read()` (R110): low when the engine drives the line low or a device pulls it low. -/
def Wire.level (w : Wire) (devices : Bool) : Bool := !w.drv && devices

/-- A bus event has happened (R118): the trace and the environment go on. -/
def Wire.record (w : Wire) (ev : BusEvent) : Wire :=
  { w with env := w.env.after ev, trace := ev :: w.trace }

/-- `BusReset()` (R112): whether a device gave presence, and the line after it. -/
def Wire.reset (w : Wire) : Bool × Wire :=
  let w := w.driveLow.release
  let presence := !w.level (w.env.presenceLevel w.trace)
  (presence, w.record (.reset presence))

/-- `BusWriteBit(b)` (R113). Its two forms differ only in the waits (`waveform`). -/
def Wire.writeBit (w : Wire) (b : Bool) : Wire :=
  w.driveLow.release.record (.write b)

/-- `BusReadBit()` (R114). -/
def Wire.readBit (w : Wire) : Bool × Wire :=
  let w := w.driveLow.release
  let s := w.level (w.env.readLevel w.trace)
  (s, w.record (.read s))

/-- `BusWriteByte(v)` (R115): least significant bit first. -/
def Wire.writeByte (w : Wire) (v : Byte) : Wire :=
  (byteBits v).foldl Wire.writeBit w

/-- Byte after byte (R74: byte 0 first). -/
def Wire.writeBytes (w : Wire) (vs : List Byte) : Wire :=
  vs.foldl Wire.writeByte w

/-- `n` read slots, the first bit first. -/
def Wire.readBits : Nat → Wire → List Bool × Wire
  | 0, w => ([], w)
  | n + 1, w =>
    let r := w.readBit
    let rest := Wire.readBits n r.2
    (r.1 :: rest.1, rest.2)

/-- `BusReadByte()` (R116): the first bit read is bit 0. -/
def Wire.readByte (w : Wire) : Byte × Wire :=
  let r := w.readBits 8
  (byteOfBits r.1, r.2)

/-- `BusReset()` on the state: it also writes PRESENCE (R112). -/
def State.busReset (s : State) : Bool × State :=
  let r := s.wire.reset
  (r.1, { s with wire := r.2, presence := r.1 })

/-- `BusWriteByte(v)` on the state (R115). -/
def State.busWriteByte (s : State) (v : Byte) : State := { s with wire := s.wire.writeByte v }

/-- The end of every command, and `raise E` (R231): ERR and RESULT are written, all else stays as the command left it. -/
def State.finish (s : State) (e : Err) (r : Word) : State := { s with err := e, result := r }

/-- BUS_TIMEOUT when a reset found no presence, OK otherwise (R119, R172). -/
def presenceErr (p : Bool) : Err := if p then .ok else .busTimeout

/-- What the line is driven to during one phase of a primitive, with its length in microseconds, or the sample point. -/
inductive Phase
  | low (us : Nat)
  | released (us : Nat)
  | sample
deriving DecidableEq, Repr

/-- The phases of a bus primitive (R112, R113, R114) with the durations of R111. -/
def waveform (t : Timing) : BusEvent → List Phase
  | .reset _ => [.released t.tG, .low t.tH, .released t.tI, .sample, .released t.tJ]
  | .write true => [.low t.tA, .released t.tB]
  | .write false => [.low t.tC, .released t.tD]
  | .read _ => [.low t.tA, .released t.tE, .sample, .released t.tF]

/-- The length of a phase. -/
def Phase.micros : Phase → Nat
  | .low us => us
  | .released us => us
  | .sample => 0

/-- The bus time of one event (R269). -/
def eventTime (t : Timing) (ev : BusEvent) : Nat := ((waveform t ev).map Phase.micros).sum

/-- The bus time of a trace (R270). No rule of the model depends on it (R269). -/
def busTime (t : Timing) (trace : List BusEvent) : Nat := (trace.map (eventTime t)).sum

end Sys2Proof.Machine
end

