-- ==== Sys2Proof/Machine/OutputController.lean ====
section
/-!
DEFINITION. The hysteresis output controller (43_output_controller.md R200-R213) and OUTPUT_UPDATE.
-/

namespace Sys2Proof.Machine

/-- `Decide(on, off, src, valid, prev)` (R202). -/
def decideOutput (on off src : Int) (valid prev : Bool) : Bool :=
  if valid = false then false
  else if on > off then
    if src ≥ on then true else if src ≤ off then false else prev
  else
    if src ≤ on then true else if src ≥ off then false else prev

/-- The channel-1 source and its validity (R203); `highOn` is the polarity of R201. -/
def source1 (s : State) (highOn : Bool) : Int × Bool :=
  let t0 := s.sensor.s0.temp.toInt
  let t1 := s.sensor.s1.temp.toInt
  match s.build.ch1Source with
  | .either => (if highOn then max t0 t1 else min t0 t1, s.sensor.s0.valid && s.sensor.s1.valid)
  | .sensor0 => (t0, s.sensor.s0.valid)
  | .sensor1 => (t1, s.sensor.s1.valid)

/-- The channel-2 source (R204): the exact absolute difference. -/
def source2 (s : State) : Int := |s.sensor.s0.temp.toInt - s.sensor.s1.temp.toInt|

/-- The channel-2 validity (R204): both readings. -/
def valid2 (s : State) : Bool := s.sensor.s0.valid && s.sensor.s1.valid

/-- The channel-1 raw decision (R200-R203, R208). -/
def rawDecision1 (s : State) : Bool :=
  let on := threshold s 0
  let off := threshold s 1
  let src := source1 s (decide (on > off))
  decideOutput on off src.1 src.2 s.out.c1.cur

/-- The channel-2 raw decision (R204, R206), coupled to the stage-2 register of channel 1 as it stands. -/
def rawDecision2 (s : State) : Bool :=
  decideOutput (threshold s 2) (threshold s 3) (source2 s) (valid2 s) s.out.c2.cur || s.out.c1.st2

/-- The counter half of `Debounce` (R207): a changed decision restarts the counter, an equal one advances it. -/
def OutChan.follow (o : OutChan) (r : Bool) : OutChan :=
  if r ≠ o.cur then { o with cur := r, cnt := 0 } else { o with cnt := satInc o.cnt }

/-- The stage half of `Debounce` (R207): each register follows CUR once the counter has reached its length. -/
def OutChan.commit (n1 n2 : Nat) (o : OutChan) : OutChan :=
  { o with
    st1 := if o.cnt.toNat ≥ n1 - 1 then o.cur else o.st1
    st2 := if o.cnt.toNat ≥ n2 - 1 then o.cur else o.st2 }

/-- `Debounce(c, r)` (R207). -/
def OutChan.debounce (n1 n2 : Nat) (o : OutChan) (r : Bool) : OutChan := (o.follow r).commit n1 n2

/-- Channel 1 of `OutputStep` (R208). -/
def outputStep1 (s : State) : State :=
  { s with out := { s.out with c1 := s.out.c1.debounce s.build.n1 s.build.n2 (rawDecision1 s) } }

/-- Channel 2 of `OutputStep` (R208). -/
def outputStep2 (s : State) : State :=
  { s with out := { s.out with c2 := s.out.c2.debounce s.build.n1 s.build.n2 (rawDecision2 s) } }

/-- `OutputStep()` (R208) where the setpoints are loaded: channel 1, then channel 2. -/
def outputStep (s : State) : State := outputStep2 (outputStep1 s)

/-- `OUTPUT_UPDATE` (R208): RESULT is the OUT register. It faults on an unloaded setpoint (R210). -/
def execOutputUpdate (s : State) : Host.Outcome State Fault Refusal :=
  if s.setpointsLoaded then
    .next (
      let t := outputStep s
      t.finish .ok (outWord t))
  else .fault .setpointBeforeLoad

end Sys2Proof.Machine
end

