-- ==== Sys2Proof/Machine/SearchDirectory.lean ====
section
/-!
DEFINITION. The search pass, the directory and select (41_search_directory.md R141-R152), with the commands SEARCH_FIRST,
SEARCH_NEXT, DISCOVER_ALL and SELECT.
-/

namespace Sys2Proof.Machine

/-- What a search pass works on while it walks the 64 positions (R141). -/
structure Walk where
  wire : Wire
  rom : Address
  crc : Byte
  lastZero : Nat
deriving DecidableEq, Repr

/-- The direction at a discrepancy (R143): replay the branch in ROM before the last discrepancy, then 1 exactly at it,
else 0. -/
def discrepancyDirection (rom : Address) (ld p : Nat) : Bool :=
  if p < ld then romBit rom p else decide (p = ld)

/-- The direction taken at position `p` after the bit `b` and its complement `cb` were read (R142, R143). -/
def searchDirection (rom : Address) (ld p : Nat) (b cb : Bool) : Bool :=
  if b = cb then discrepancyDirection rom ld p else b

/-- One position of the walk after its two read slots (R141): record the direction, write it, fold a completed byte. -/
def Walk.take (form : CrcForm) (ld p : Nat) (b cb : Bool) (wire : Wire) (w : Walk) : Walk :=
  let d := searchDirection w.rom ld p b cb
  let rom := setRomBit w.rom p d
  { wire := wire.writeBit d
    rom := rom
    crc := if (p - 1) % 8 = 7 then crcStep form w.crc (rom.getD ((p - 1) / 8) 0) else w.crc
    lastZero := if b = cb ∧ d = false then p else w.lastZero }

/-- One position of the walk (R141). The flag is false when the pair read `(1, 1)`: no device answered (R142). -/
def Walk.position (form : CrcForm) (ld p : Nat) (w : Walk) : Bool × Walk :=
  let rb := w.wire.readBit
  let rc := rb.2.readBit
  if rb.1 && rc.1 then (false, { w with wire := rc.2 }) else (true, w.take form ld p rb.1 rc.1 rc.2)

/-- `n` positions of the walk from position `p` on, stopping where no device answers. -/
def Walk.positions (form : CrcForm) (ld : Nat) : Nat → Nat → Walk → Bool × Walk
  | 0, _, w => (true, w)
  | n + 1, p, w =>
    let r := w.position form ld p
    if r.1 then Walk.positions form ld n (p + 1) r.2 else r

/-- Every failing outcome of a pass resets the search state (R147). -/
def State.abandonSearch (s : State) : State := { s with ld := 0, ldf := false, found := false }

/-- The last part of a pass (R141, R145, R146): the outcome of the walk, then the CRC check. -/
def State.endPass (s : State) (r : Bool × Walk) : Err × State :=
  let s := { s with wire := r.2.wire, rom := r.2.rom, crc := r.2.crc }
  if r.1 = false then (.searchNoDevice, s.abandonSearch)
  else if s.crc ≠ 0 then (.checksumMismatch, s.abandonSearch)
  else (.ok, { s with ld := r.2.lastZero, ldf := if r.2.lastZero = 0 then true else s.ldf, found := true })

/-- The walk of a pass, after its reset saw presence (R141). -/
def State.walk (s : State) : Err × State :=
  let wire := s.wire.writeByte s.build.cmdSearch
  s.endPass (Walk.positions s.build.crcForm s.ld 64 1 { wire := wire, rom := s.rom, crc := 0, lastZero := 0 })

/-- `SearchPass(first)` (R141). -/
def State.searchPass (s : State) (first : Bool) : Err × State :=
  let s := if first then { s with ld := 0, ldf := false } else s
  if s.ldf then (.searchExhausted, s.abandonSearch)
  else
    let r := s.busReset
    if r.1 then r.2.walk else (.busTimeout, r.2.abandonSearch)

/-- `SEARCH_FIRST` (R148). -/
def execSearchFirst (s : State) : Host.Outcome State Fault Refusal :=
  .next (
    let r := s.searchPass true
    r.2.finish r.1 (zextBool r.2.found))

/-- `SEARCH_NEXT` (R149). -/
def execSearchNext (s : State) : Host.Outcome State Fault Refusal :=
  .next (
    let r := s.searchPass false
    r.2.finish r.1 (zextBool r.2.found))

/-- The directory emptied (R150). -/
def State.clearDirectory (s : State) : State :=
  { s with dir := List.replicate s.build.dirCap (Vector.replicate 8 0), dirCount := 0 }

/-- The address just found stored in the next directory slot (R150). -/
def State.storeFound (s : State) : State :=
  { s with dir := s.dir.set s.dirCount s.rom, dirCount := s.dirCount + 1 }

/-- The loop of `DISCOVER_ALL` (R150), entered with the outcome of a pass. At most DIR_CAP devices are stored, so DIR_CAP
rounds are enough (log 16). -/
def State.discover : Nat → Err × State → Err × State
  | 0, r => r
  | n + 1, r =>
    if r.1 = .ok then
      let s := r.2.storeFound
      if s.ldf then (.ok, s)
      else if s.dirCount = s.build.dirCap then (.directoryFull, s)
      else State.discover n (s.searchPass false)
    else r

/-- `DISCOVER_ALL` (R150). -/
def execDiscoverAll (s : State) : Host.Outcome State Fault Refusal :=
  .next (
    let r := State.discover s.build.dirCap (s.clearDirectory.searchPass true)
    r.2.finish r.1 (BitVec.ofNat 16 r.2.dirCount))

/-- `Select(i)` (R151): the index check, the reset, the match command and the address, family byte first. -/
def State.selectSlot (s : State) (i : Nat) : Err × State :=
  if s.dirCount ≤ i then (.badIndex, s)
  else
    let r := s.busReset
    if r.1 then
      (.ok, { r.2 with wire := (r.2.wire.writeByte s.build.cmdMatch).writeBytes (s.dirEntry i).toList })
    else (.busTimeout, r.2)

/-- `SELECT i` (R152). -/
def execSelect (index : Nat) (s : State) : Host.Outcome State Fault Refusal :=
  .next (
    let r := s.selectSlot index
    r.2.finish r.1 (zextBool (decide (r.1 = .ok))))

end Sys2Proof.Machine
end

