-- ==== Sys2Proof/Machine/Acquisition.lean ====
section
/-!
DEFINITION. The acquisition pipeline (42_acquisition.md R170-R182): conversion start, scratchpad read, min/max history,
clock, hour roll and the whole cycle.
-/

namespace Sys2Proof.Machine

/-- `StartConv()` (R172). -/
def State.startConv (s : State) : Bool × State :=
  let r := s.busReset
  if r.1 && decide (0 < s.dirCount) then
    (r.1, (r.2.busWriteByte s.build.cmdSkip).busWriteByte s.build.cmdConvert)
  else r

/-- `START_CONVERSIONS` (R172). -/
def execStartConversions (s : State) : Host.Outcome State Fault Refusal :=
  .next (
    let r := s.startConv
    r.2.finish (presenceErr r.1) (zextBool r.1))

/-- A channel whose read was not accepted: invalid for this cycle, TEMP kept (R173, R182). -/
def SensorChan.reject (e : Err) (c : SensorChan) : SensorChan := { c with valid := false, cause := e }

/-- A channel whose read gave the temperature `t` (R173). -/
def SensorChan.accept (t : Word) (c : SensorChan) : SensorChan := { c with temp := t, valid := true, cause := .ok }

/-- `VALID[ch] <- 0 ; CAUSE[ch] <- e` (R173). -/
def State.rejectChannel (s : State) (ch : Sensor) (e : Err) : State :=
  { s with sensor := s.sensor.modify ch (SensorChan.reject e) }

/-- `TEMP[ch] <- Convert(..) ; VALID[ch] <- 1 ; CAUSE[ch] <- OK` (R173). -/
def State.acceptChannel (s : State) (ch : Sensor) : State :=
  { s with sensor := s.sensor.modify ch (SensorChan.accept (convert s.build.tempRounding (rawTemp s.scratch))) }

/-- One byte of the scratchpad read and folded (R173). -/
def State.readScratchByte (s : State) (k : Nat) : State :=
  let r := s.wire.readByte
  { s with wire := r.2, scratch := s.scratch.setIfInBounds k r.1, crc := crcStep s.build.crcForm s.crc r.1 }

/-- The read-scratchpad command and its nine bytes (R173). -/
def State.readScratch (s : State) : State :=
  [0, 1, 2, 3, 4, 5, 6, 7, 8].foldl State.readScratchByte { s.busWriteByte s.build.cmdReadSp with crc := 0 }

/-- The channel of a read scratchpad: accepted iff the nine bytes fold to 0 (R173, R179). -/
def State.judgeScratch (s : State) (ch : Sensor) : State :=
  if s.crc = 0 then s.acceptChannel ch else s.rejectChannel ch .checksumMismatch

/-- `ReadChannel(ch)` (R173). -/
def State.readChannel (s : State) (ch : Sensor) : State :=
  if s.dirCount ≤ ch.slot then s.rejectChannel ch .invalidReading
  else
    let r := s.selectSlot ch.slot
    if r.1 = .ok then r.2.readScratch.judgeScratch ch else r.2.rejectChannel ch r.1

/-- Both channels read, channel 0 first (R174). -/
def State.readChannels (s : State) : State := (s.readChannel .s0).readChannel .s1

/-- `READ_ALL` (R174). -/
def execReadAll (s : State) : Host.Outcome State Fault Refusal :=
  .next (
    let t := s.readChannels
    t.finish (readErr t) (validBits t))

/-- A slot widened to include a reading (R175). -/
def HistSlot.include (h : HistSlot) (t : Word) : HistSlot := { lo := sMin h.lo t, hi := sMax h.hi t }

/-- The current slot of a channel widened by a valid reading (R175); an invalid channel is skipped. -/
def SensorChan.widen (idx : Fin 24) (c : SensorChan) : SensorChan :=
  if c.valid then { c with hist := c.hist.set idx (c.hist[idx].include c.temp) } else c

/-- `MinMax()` (R175). -/
def State.minMax (s : State) : State := { s with sensor := s.sensor.map (SensorChan.widen s.histIdx) }

/-- `UPDATE_MINMAX` (R175). -/
def execUpdateMinmax (s : State) : Host.Outcome State Fault Refusal := .next (s.minMax.finish .ok 0)

/-- The seconds a clock step adds (R176): 2 on the leap step, else 1. -/
def clockIncrement (s : State) : Nat := if s.leap + 1 = s.build.leapPeriod then 2 else 1

/-- LEAP after a clock step (R176). -/
def nextLeap (s : State) : Nat := if s.leap + 1 = s.build.leapPeriod then 0 else s.leap + 1

/-- `ClockStep()` (R176). The value returned is HOUR_ROLLED. -/
def State.clockStep (s : State) : State :=
  let sec := s.sec + clockIncrement s
  let leap := nextLeap s
  if sec ≥ 60 then
    if s.minute + 1 = 60 then
      { s with sec := sec - 60, minute := 0, hour := (s.hour + 1) % 24, leap := leap, hourRolled := true }
    else { s with sec := sec - 60, minute := s.minute + 1, leap := leap, hourRolled := false }
  else { s with sec := sec, leap := leap, hourRolled := false }

/-- `ADVANCE_CLOCK` (R176). -/
def execAdvanceClock (s : State) : Host.Outcome State Fault Refusal :=
  .next (
    let t := s.clockStep
    t.finish .ok (zextBool t.hourRolled))

/-- A channel's slot set to the sentinels (R177). -/
def SensorChan.emptySlot (idx : Fin 24) (c : SensorChan) : SensorChan :=
  { c with hist := c.hist.set idx HistSlot.empty }

/-- `HourRoll()` (R177): the index wraps modulo 24, the new slot of both channels is emptied, HOURS_SEEN saturates. -/
def State.hourRoll (s : State) : State :=
  { s with
    histIdx := s.histIdx + 1
    sensor := s.sensor.map (SensorChan.emptySlot (s.histIdx + 1))
    hoursSeen := min (s.hoursSeen + 1) 23 }

/-- `HOUR_ROLLED` (R177). -/
def execHourRolled (s : State) : Host.Outcome State Fault Refusal :=
  .next (
    let t := s.hourRoll
    t.finish .ok (BitVec.ofNat 16 t.histIdx.val))

/-- The data part of a cycle (R180): its error code, and the state with both channels judged. -/
def State.acquireData (s : State) : Err × State :=
  let r := s.startConv
  if r.1 then
    let t := r.2.readChannels
    (readErr t, t)
  else (.busTimeout, (r.2.rejectChannel .s0 .busTimeout).rejectChannel .s1 .busTimeout)

/-- The clock part of a cycle (R180): the clock, then the history roll when the hour rolled. -/
def State.clockAndRoll (s : State) : State :=
  let t := s.clockStep
  if t.hourRolled then t.hourRoll else t

/-- A whole cycle where the setpoints are loaded (R180): data, history, outputs, clock, then ERR and RESULT. -/
def State.cycle (s : State) : State :=
  let r := s.acquireData
  let t := (outputStep r.2.minMax).clockAndRoll
  t.finish r.1 (validBits t)

/-- The cycle, or the model fault of R210. OutputStep raises it after the bus reads; the fault is final and no command
before OutputStep writes SP_LOADED, so it is decided first (log 8). -/
def runCycle (s : State) : Host.Outcome State Fault Refusal :=
  if s.setpointsLoaded then .next s.cycle else .fault .setpointBeforeLoad

/-- `ACQUIRE_CYCLE` (R180). -/
def execAcquireCycle (s : State) : Host.Outcome State Fault Refusal := runCycle s

end Sys2Proof.Machine
end

