-- ==== Sys2Proof/Machine/BusPrimitives.lean ====
section
/-!
DEFINITION. The seven commands that expose the bus primitives and the CRC accumulator (40_bus_primitives.md R119-R127).
-/

namespace Sys2Proof.Machine

/-- `OW_RESET` (R119). -/
def execOwReset (s : State) : Host.Outcome State Fault Refusal :=
  .next (
    let r := s.busReset
    r.2.finish (presenceErr r.1) (zextBool r.1))

/-- `OW_WRITE_BIT b` (R122). -/
def execOwWriteBit (b : Bool) (s : State) : Host.Outcome State Fault Refusal :=
  .next (State.finish { s with wire := s.wire.writeBit b } .ok 0)

/-- `OW_READ_BIT` (R123). -/
def execOwReadBit (s : State) : Host.Outcome State Fault Refusal :=
  .next (
    let r := s.wire.readBit
    State.finish { s with wire := r.2 } .ok (zextBool r.1))

/-- `OW_WRITE_BYTE v` (R124). CRC is not folded. -/
def execOwWriteByte (v : Byte) (s : State) : Host.Outcome State Fault Refusal :=
  .next ((s.busWriteByte v).finish .ok 0)

/-- `OW_READ_BYTE` (R125). CRC is not folded. -/
def execOwReadByte (s : State) : Host.Outcome State Fault Refusal :=
  .next (
    let r := s.wire.readByte
    State.finish { s with wire := r.2 } .ok (r.1.setWidth 16))

/-- `CRC_CLEAR` (R126). -/
def execCrcClear (s : State) : Host.Outcome State Fault Refusal :=
  .next (State.finish { s with crc := 0 } .ok 0)

/-- `CRC_UPDATE v` (R127): RESULT is the new CRC. -/
def execCrcUpdate (v : Byte) (s : State) : Host.Outcome State Fault Refusal :=
  .next (
    let c := crcStep s.build.crcForm s.crc v
    State.finish { s with crc := c } .ok (c.setWidth 16))

end Sys2Proof.Machine
end

