-- ==== Sys2Proof/Machine/System.lean ====
section
/-!
DEFINITION. NOP (60_exceptions.md R240).
-/

namespace Sys2Proof.Machine

/-- `NOP` (R240): `ERR <- OK; RESULT <- 0`. -/
def execNop (s : State) : Host.Outcome State Fault Refusal := .next (s.finish .ok 0)

end Sys2Proof.Machine
end

