-- ==== Sys2Proof/Machine/Dispatch.lean ====
section
/-!
DEFINITION. The meaning of each command (30_encoding.md R92).
-/

namespace Sys2Proof.Machine

def exec (i : Instr) (s : State) : Host.Outcome State Fault Refusal :=
  match i with
  | .nop => Sys2Proof.Machine.execNop s
  | .owReset => Sys2Proof.Machine.execOwReset s
  | .owWriteBit b => Sys2Proof.Machine.execOwWriteBit b s
  | .owReadBit => Sys2Proof.Machine.execOwReadBit s
  | .owWriteByte v => Sys2Proof.Machine.execOwWriteByte v s
  | .owReadByte => Sys2Proof.Machine.execOwReadByte s
  | .crcClear => Sys2Proof.Machine.execCrcClear s
  | .crcUpdate v => Sys2Proof.Machine.execCrcUpdate v s
  | .searchFirst => Sys2Proof.Machine.execSearchFirst s
  | .searchNext => Sys2Proof.Machine.execSearchNext s
  | .discoverAll => Sys2Proof.Machine.execDiscoverAll s
  | .select index => Sys2Proof.Machine.execSelect index s
  | .startConversions => Sys2Proof.Machine.execStartConversions s
  | .readAll => Sys2Proof.Machine.execReadAll s
  | .updateMinmax => Sys2Proof.Machine.execUpdateMinmax s
  | .advanceClock => Sys2Proof.Machine.execAdvanceClock s
  | .hourRolled => Sys2Proof.Machine.execHourRolled s
  | .acquireCycle => Sys2Proof.Machine.execAcquireCycle s
  | .outputUpdate => Sys2Proof.Machine.execOutputUpdate s

end Sys2Proof.Machine
end

