-- ==== Sys2Proof/Machine/Registers.lean ====
section
/-!
DEFINITION. The host register space (20_memory.md R60-R73): the map from addresses to registers, the read of a register,
and the write of every register but CMD, whose write runs a command (Machine/Agents.lean).
-/

namespace Sys2Proof.Machine

/-- The named registers of R62. -/
inductive RegName
  | cmd | status | result | ctrl | crc | search | rom01 | rom23 | rom45 | rom67 | dirCount | ticks
  | temp0 | temp1 | valid | spCh1On | spCh1Off | spCh2On | spCh2Off | out | cnt
  | sec | minute | hour | hoursSeen | histIdx | leap
deriving DecidableEq, Repr

/-- What an address of the register space names (R62, R72, R73). -/
inductive Location
  | reg (r : RegName)
  | dirWord (i k : Nat)
  | histWord (ch : Sensor) (off : Nat) (isMax : Bool)
  | reserved
deriving DecidableEq, Repr

/-- The address column of R62. -/
def RegName.addr : RegName → Byte
  | .cmd => 0x00
  | .status => 0x01
  | .result => 0x02
  | .ctrl => 0x03
  | .crc => 0x04
  | .search => 0x05
  | .rom01 => 0x06
  | .rom23 => 0x07
  | .rom45 => 0x08
  | .rom67 => 0x09
  | .dirCount => 0x0A
  | .ticks => 0x0B
  | .temp0 => 0x10
  | .temp1 => 0x11
  | .valid => 0x12
  | .spCh1On => 0x14
  | .spCh1Off => 0x15
  | .spCh2On => 0x16
  | .spCh2Off => 0x17
  | .out => 0x18
  | .cnt => 0x19
  | .sec => 0x1A
  | .minute => 0x1B
  | .hour => 0x1C
  | .hoursSeen => 0x1D
  | .histIdx => 0x1E
  | .leap => 0x1F

/-- The DIR window (R72), the HIST window (R73) and the reserved addresses (R63). -/
def locateWindow (a : Nat) : Location :=
  if 0x40 ≤ a ∧ a ≤ 0x7F then .dirWord ((a - 0x40) / 4) ((a - 0x40) % 4)
  else if 0x80 ≤ a ∧ a ≤ 0xDF then
    .histWord (if (a - 0x80) / 48 = 0 then .s0 else .s1) ((a - 0x80) % 48 / 2) (decide ((a - 0x80) % 2 = 1))
  else .reserved

/-- What an address names. -/
def locate (a : Byte) : Location :=
  match a.toNat with
  | 0x00 => .reg .cmd
  | 0x01 => .reg .status
  | 0x02 => .reg .result
  | 0x03 => .reg .ctrl
  | 0x04 => .reg .crc
  | 0x05 => .reg .search
  | 0x06 => .reg .rom01
  | 0x07 => .reg .rom23
  | 0x08 => .reg .rom45
  | 0x09 => .reg .rom67
  | 0x0A => .reg .dirCount
  | 0x0B => .reg .ticks
  | 0x10 => .reg .temp0
  | 0x11 => .reg .temp1
  | 0x12 => .reg .valid
  | 0x14 => .reg .spCh1On
  | 0x15 => .reg .spCh1Off
  | 0x16 => .reg .spCh2On
  | 0x17 => .reg .spCh2Off
  | 0x18 => .reg .out
  | 0x19 => .reg .cnt
  | 0x1A => .reg .sec
  | 0x1B => .reg .minute
  | 0x1C => .reg .hour
  | 0x1D => .reg .hoursSeen
  | 0x1E => .reg .histIdx
  | 0x1F => .reg .leap
  | n => locateWindow n

/-- The read of a setpoint register (R68): sign-extended; before its first write a free value in the channel's range. -/
def readSetpoint (s : State) (i : Fin 4) : Word :=
  if s.spLoaded[i] then s.sp[i].signExtend 16
  else (clampSetpoint i (Config.unloadedSetpoint s.powerOns i).toInt).signExtend 16

/-- Two bytes of an address in one register, the lower-numbered byte in bits 7:0 (R71, R72, R77). -/
def addressWord (r : Address) (k : Nat) : Word := r.getD (2 * k + 1) 0 ++ r.getD (2 * k) 0

/-- The bits of a named register (R62, R66-R71). -/
def readReg (s : State) : RegName → Word
  | .cmd => s.lastCmd
  | .status => statusWord s
  | .result => s.result
  | .ctrl => zextBool s.auto
  | .crc => s.crc.setWidth 16
  | .search => searchWord s
  | .rom01 => addressWord s.rom 0
  | .rom23 => addressWord s.rom 1
  | .rom45 => addressWord s.rom 2
  | .rom67 => addressWord s.rom 3
  | .dirCount => (BitVec.ofNat 8 s.dirCount).setWidth 16
  | .ticks => s.ticks.setWidth 16
  | .temp0 => s.sensor.s0.temp
  | .temp1 => s.sensor.s1.temp
  | .valid => validWord s
  | .spCh1On => readSetpoint s 0
  | .spCh1Off => readSetpoint s 1
  | .spCh2On => readSetpoint s 2
  | .spCh2Off => readSetpoint s 3
  | .out => outWord s
  | .cnt => cntWord s
  | .sec => (BitVec.ofNat 6 s.sec).setWidth 16
  | .minute => (BitVec.ofNat 6 s.minute).setWidth 16
  | .hour => (BitVec.ofNat 5 s.hour).setWidth 16
  | .hoursSeen => (BitVec.ofNat 5 s.hoursSeen).setWidth 16
  | .histIdx => (BitVec.ofNat 5 s.histIdx.val).setWidth 16
  | .leap => (BitVec.ofNat 8 s.leap).setWidth 16

/-- A history register (R73). -/
def readHist (s : State) (ch : Sensor) (off : Nat) (isMax : Bool) : Word :=
  let slot := (s.sensor.get ch).hist[histSlotAt s off]
  if isMax then slot.hi else slot.lo

/-- `MemRead(a, 2)` (R61). No read has a side effect (R79). -/
def memRead (s : State) (a : Byte) : Word :=
  match locate a with
  | .reg r => readReg s r
  | .dirWord i k => if i < s.build.dirCap then addressWord (s.dirEntry i) k else 0
  | .histWord ch off isMax => readHist s ch off isMax
  | .reserved => 0

/-- The write of a setpoint register (R68): clamped, never rejected. -/
def writeSetpoint (s : State) (i : Fin 4) (v : Word) : State :=
  { s with sp := s.sp.set i (clampSetpoint i v.toInt), spLoaded := s.spLoaded.set i true }

/-- `MemWrite(a, 2, v)` for every register but CMD (R63, R64, R68, R69): CTRL and the setpoints take the value, every other
write has no effect. -/
def writeRegister (s : State) (a : Byte) (v : Word) : State :=
  match locate a with
  | .reg .ctrl => { s with auto := v.getLsbD 0 }
  | .reg .spCh1On => writeSetpoint s 0 v
  | .reg .spCh1Off => writeSetpoint s 1 v
  | .reg .spCh2On => writeSetpoint s 2 v
  | .reg .spCh2Off => writeSetpoint s 3 v
  | .reg _ => s
  | .dirWord _ _ => s
  | .histWord _ _ _ => s
  | .reserved => s

end Sys2Proof.Machine
end

