-- ==== Sys2Proof/Machine/Agents.lean ====
section
/-!
DEFINITION. The steps of the agents (00_scope.md R11): the command write (20_memory.md R65), the host accesses (R61), the
tick (60_exceptions.md R234), the automatic cycle (R235) and power-on (70_reset_and_hazards.md R260), and their serial
order (R80, R236).
-/

namespace Sys2Proof.Machine

/-- A write of CMD (R65): LASTCMD takes the word, then the word's command runs. A word that is no command ends at once
with ILLEGAL_COMMAND (R93) or BAD_OPERAND (R94). -/
def writeCommand (s : State) (v : Word) : Host.Outcome State Fault Refusal :=
  match decode v with
  | .command i => exec i { s with lastCmd := v }
  | .illegalCommand => .next (State.finish { s with lastCmd := v } .illegalCommand 0)
  | .badOperand => .next (State.finish { s with lastCmd := v } .badOperand 0)

/-- `MemWrite(a, 2, v)` (R61). -/
def memWrite (s : State) (a : Byte) (v : Word) : Host.Outcome State Fault Refusal :=
  if a = RegName.addr .cmd then writeCommand s v else .next (writeRegister s a v)

/-- `Tick()` (R234). -/
def State.tick (s : State) : State := { s with ticks := satInc s.ticks }

/-- An automatic cycle is enabled (R235). -/
def State.autoEnabled (s : State) : Bool := s.auto && decide (s.ticks ≠ 0)

/-- `AutoCycle()` (R235). LASTCMD is not changed. -/
def autoCycle (s : State) : Host.Outcome State Fault Refusal := runCycle { s with ticks := 0 }

/-- The engine's turn while no host command runs (R235): an automatic cycle if one is enabled, else nothing (R261). -/
def engineTurn (s : State) : Host.Outcome State Fault Refusal :=
  if s.autoEnabled then autoCycle s else .next s

/-- Power-on of a block in service (R260): every state element takes its reset value. The devices, the trace, the
schedule and the build stay (log 13). -/
def State.powerCycle (s : State) : State :=
  { State.powerOn s.build with
    wire := { s.wire with drv := false }
    sched := s.sched
    powerOns := s.powerOns + 1 }

/-- One turn of one agent. -/
def takeTurn (s : State) : Turn → Host.Outcome State Fault Refusal
  | .hostRead a => .next { s with readData := memRead s a }
  | .hostWrite a v => memWrite s a v
  | .tick => .next s.tick
  | .autoCycle => engineTurn s
  | .powerOn => .next s.powerCycle
  | .busChange e => .next { s with wire := { s.wire with env := e } }

/-- The next step of the serial order (R80): the first turn of the schedule. When the host and the tick source have no
turn left, the engine is the only agent that can move (log 5). -/
def nextTurn (s : State) : Host.Outcome State Fault Refusal :=
  match s.sched with
  | [] => engineTurn s
  | t :: rest => takeTurn { s with sched := rest } t

/-- The schedule with a command write put before every other turn. -/
def State.placeCommand (s : State) (v : Word) : State :=
  { s with sched := .hostWrite (RegName.addr .cmd) v :: s.sched }

end Sys2Proof.Machine
end

