-- ==== Sys2Proof/Machine/Step.lean ====
section
/-!
DEFINITION. One step of the machine: one turn of one agent in the serial order (20_memory.md R80).
-/

namespace Sys2Proof.Machine

/-- One step. -/
def step (s : State) : Host.Outcome State Fault Refusal := nextTurn s

/-- `s` with the command word `w` as the next thing the host writes to CMD, so that the very next step runs it (log 10). -/
def State.withFetchWord (s : State) (nbits w : Nat) : State :=
  s.placeCommand (BitVec.ofNat 16 (w % 2 ^ nbits))

end Sys2Proof.Machine
end

