-- ==== Sys2Proof/Machine/HostPrograms.lean ====
section
/-!
DEFINITION. The assembler's words and the host pseudo-instructions (30_encoding.md R96-R98), as lists of host turns.
-/

namespace Sys2Proof.Machine

/-- The mnemonic of R92. -/
def mnemonic : Instr → String
  | .nop => "NOP"
  | .owReset => "OW_RESET"
  | .owWriteBit _ => "OW_WRITE_BIT"
  | .owReadBit => "OW_READ_BIT"
  | .owWriteByte _ => "OW_WRITE_BYTE"
  | .owReadByte => "OW_READ_BYTE"
  | .crcClear => "CRC_CLEAR"
  | .crcUpdate _ => "CRC_UPDATE"
  | .searchFirst => "SEARCH_FIRST"
  | .searchNext => "SEARCH_NEXT"
  | .discoverAll => "DISCOVER_ALL"
  | .select _ => "SELECT"
  | .startConversions => "START_CONVERSIONS"
  | .readAll => "READ_ALL"
  | .updateMinmax => "UPDATE_MINMAX"
  | .advanceClock => "ADVANCE_CLOCK"
  | .hourRolled => "HOUR_ROLLED"
  | .acquireCycle => "ACQUIRE_CYCLE"
  | .outputUpdate => "OUTPUT_UPDATE"

/-- An operand of a source line (R96): a number, or the symbolic name of a bus command byte. -/
inductive AsmOperand
  | number (n : Nat)
  | cmdSearch
  | cmdMatch
  | cmdSkip
  | cmdConvert
  | cmdReadSp
deriving DecidableEq, Repr

/-- The number an operand stands for (R96). -/
def AsmOperand.value (b : Build) : AsmOperand → Nat
  | .number n => n
  | .cmdSearch => b.cmdSearch.toNat
  | .cmdMatch => b.cmdMatch.toNat
  | .cmdSkip => b.cmdSkip.toNat
  | .cmdConvert => b.cmdConvert.toNat
  | .cmdReadSp => b.cmdReadSp.toNat

/-- One command of each mnemonic, its operand 0: what the assembler looks a mnemonic up in. -/
def mnemonicTable : List Instr :=
  [.nop, .owReset, .owWriteBit false, .owReadBit, .owWriteByte 0, .owReadByte, .crcClear, .crcUpdate 0, .searchFirst,
   .searchNext, .discoverAll, .select 0, .startConversions, .readAll, .updateMinmax, .advanceClock, .hourRolled,
   .acquireCycle, .outputUpdate]

/-- The assembled word of a source line (R96): `(operand << 8) | op`; no operand counts as 0. An operand that does not fit
the operand byte, or an unknown mnemonic, has no word. -/
def assemble (b : Build) (name : String) (operand : Option AsmOperand) : Option Word :=
  let a := (operand.map (AsmOperand.value b)).getD 0
  if a < 256 then
    ((mnemonicTable.find? (fun i => mnemonic i == name)).map opcode).map (fun op => BitVec.ofNat 8 a ++ op)
  else none

/-- `CMD mnemonic [operand]` (R97): a write of the assembled word to CMD. For an index of SELECT above 255, which has no
word, it writes the word of the index modulo 256: DESIGN CHOICE (log 20). -/
def cmdTurn (i : Instr) : Turn := .hostWrite (RegName.addr .cmd) (encode i)

/-- The pseudo-instructions of R98. -/
inductive Pseudo
  | loadSetpoints (a b c d : Word)
  | boot (a b c d : Word)
  | skipConvert
  | crcCheck (bytes : List Byte)
  | matchDevice (i : Nat)
deriving DecidableEq, Repr

/-- `LOAD_SETPOINTS a, b, c, d` (R98). -/
def loadSetpointsTurns (a b c d : Word) : List Turn :=
  [.hostWrite (RegName.addr .spCh1On) a, .hostWrite (RegName.addr .spCh1Off) b,
   .hostWrite (RegName.addr .spCh2On) c, .hostWrite (RegName.addr .spCh2Off) d]

/-- The expansion of a pseudo-instruction (R98, R262). `MATCH i` with i above 255 expands as `MATCH (i mod 256)`, a DESIGN
CHOICE: the spec gives `CMD SELECT i` no word there (log 20). -/
def Pseudo.expand (bld : Build) : Pseudo → List Turn
  | .loadSetpoints a b c d => loadSetpointsTurns a b c d
  | .boot a b c d =>
    loadSetpointsTurns a b c d ++ [cmdTurn .discoverAll, .hostWrite (RegName.addr .ctrl) 1]
  | .skipConvert => [cmdTurn .owReset, cmdTurn (.owWriteByte bld.cmdSkip), cmdTurn (.owWriteByte bld.cmdConvert)]
  | .crcCheck bytes => cmdTurn .crcClear :: bytes.map (fun v => cmdTurn (.crcUpdate v))
  | .matchDevice i => [cmdTurn (.select i)]

end Sys2Proof.Machine
end

