-- ==== Sys2Proof/Safety.lean ====
section
/-!
DEFINITION. What a safe state is: the invariants of 10_state.md R49, in the terms the statements use.
-/

namespace Sys2Proof.Machine

/-- SP[i], once loaded, is within its channel's range (R38, R49). -/
abbrev State.SetpointInRange (s : State) (i : Fin 4) : Prop :=
  s.spLoaded[i] = true → setpointLow i ≤ s.sp[i].toInt ∧ s.sp[i].toInt ≤ 100

/-- VALID[ch] = 1 iff CAUSE[ch] = 0 (R49). -/
abbrev SensorChan.CauseAgrees (c : SensorChan) : Prop := c.valid = true ↔ c.cause = .ok

/-- The invariants of R49, with the size of the directory array (R28) and the ranges of the build's parameters (R6). -/
structure State.Inv (s : State) : Prop where
  build : s.build.Valid
  ld : s.ld ≤ 64
  ldf : s.ldf = true → s.ld = 0
  dirSize : s.dir.length = s.build.dirCap
  dirCount : s.dirCount ≤ s.build.dirCap
  dirEmpty : ∀ i, s.dirCount ≤ i → s.dirEntry i = Vector.replicate 8 0
  hoursSeen : s.hoursSeen ≤ 23
  hour : s.hour ≤ 23
  sec : s.sec ≤ 59
  minute : s.minute ≤ 59
  leap : s.leap ≤ s.build.leapPeriod - 1
  setpoints : ∀ i : Fin 4, s.SetpointInRange i
  cause0 : s.sensor.s0.CauseAgrees
  cause1 : s.sensor.s1.CauseAgrees
  line : s.wire.drv = false

end Sys2Proof.Machine
end

