-- ==== Sys2Proof/Certificates/Slice0/Obligations.lean ====
section
/-!
DEFINITION. The statements for the provers, one `def Obligations.<Name> : Prop` each. Each docstring names the rule it
formalises. A statement about a build's parameters, an environment or a free value holds for every one of them.
-/

namespace Sys2Proof.Machine

/-- The opcodes R93 lists as illegal: 0x0C-0x0F, 0x16, 0x17 and 0x19-0xFF. -/
def illegalOpcode (op : Nat) : Bool :=
  decide (0x0C ≤ op ∧ op ≤ 0x0F) || op == 0x16 || op == 0x17 || decide (0x19 ≤ op)

/-- The class N opcodes of R92. -/
def classNOpcodes : List Nat :=
  [0x00, 0x01, 0x03, 0x05, 0x06, 0x08, 0x09, 0x0A, 0x10, 0x11, 0x12, 0x13, 0x14, 0x15, 0x18]

/-- The addresses R62 leaves to "all others": 0x0C-0x0F, 0x13, 0x20-0x3F, 0xE0-0xFF. -/
def reservedAddress (a : Nat) : Bool :=
  decide (0x0C ≤ a ∧ a ≤ 0x0F) || a == 0x13 || decide (0x20 ≤ a ∧ a ≤ 0x3F) || decide (0xE0 ≤ a)

/-- The addresses the host may write (R62): CMD, CTRL and the four setpoints. -/
def writableAddresses : List Byte := [0x00, 0x03, 0x14, 0x15, 0x16, 0x17]

/-- The upper end of a setpoint's range is 100; the lower end is -10 on channel 1 and 0 on channel 2 (R68). -/
def setpointFloor (i : Fin 4) : Int := if i = 0 ∨ i = 1 then -10 else 0

/-- The error codes a command can write after its decode (R233). -/
def allowedErrors : Instr → List Err
  | .nop | .owWriteBit _ | .owReadBit | .owWriteByte _ | .owReadByte | .crcClear | .crcUpdate _
  | .updateMinmax | .advanceClock | .hourRolled | .outputUpdate => [.ok]
  | .owReset | .startConversions => [.ok, .busTimeout]
  | .searchFirst => [.ok, .busTimeout, .checksumMismatch, .searchNoDevice]
  | .searchNext => [.ok, .busTimeout, .checksumMismatch, .searchNoDevice, .searchExhausted]
  | .discoverAll => [.ok, .busTimeout, .checksumMismatch, .directoryFull, .searchNoDevice]
  | .select _ => [.ok, .badIndex, .busTimeout]
  | .readAll | .acquireCycle => [.ok, .busTimeout, .checksumMismatch, .invalidReading]

/-- The write slots of a byte, least significant bit first (R74, R115). -/
def writeSlots (v : Byte) : List BusEvent := (List.range 8).map (fun i => .write (v.getLsbD i))

/-- The first `n` read slots of a byte that reads as `v`, least significant bit first (R74, R116). -/
def readSlots (v : Byte) (n : Nat) : List BusEvent := (List.range n).map (fun k => .read (v.getLsbD k))

/-- The new bus events of a step from `s` to `t`, oldest first, are `evs` (R118). -/
def BusEvents (s t : State) (evs : List BusEvent) : Prop := t.wire.trace = evs.reverse ++ s.wire.trace

/-- In the events of a search pass the slots of position `p` are: read `b`, read `cb`, write `d`. The pass begins with the
reset and the 8 slots of the command byte (R141). -/
def SearchSlots (evs : List BusEvent) (p : Nat) (b cb d : Bool) : Prop :=
  evs[9 + 3 * (p - 1)]? = some (.read b) ∧ evs[10 + 3 * (p - 1)]? = some (.read cb) ∧
    evs[11 + 3 * (p - 1)]? = some (.write d)

/-- The direction that R142 and R143 prescribe at position `p` of a pass that began with `ld` and `rom`. -/
def PrescribedDirection (rom : Address) (ld p : Nat) (b cb d : Bool) : Prop :=
  (b ≠ cb → d = b) ∧ (b = false ∧ cb = false → p < ld → d = romBit rom p) ∧
    (b = false ∧ cb = false → p = ld → d = true) ∧ (b = false ∧ cb = false → ld < p → d = false)

/-- At position `p` the direction 0 was taken at a discrepancy (R144). -/
def ZeroChoice (evs : List BusEvent) (p : Nat) : Prop := SearchSlots evs p false false false

/-- The command for a search pass: SEARCH_FIRST or SEARCH_NEXT. -/
def searchCommand (first : Bool) : Instr := if first then .searchFirst else .searchNext

/-- LD at the start of the walk of a search command (R141): cleared by "find first". -/
def ldAtStart (first : Bool) (s : State) : Nat := if first then 0 else s.ld

/-- Seconds of uptime shown by the clock registers (R36). -/
def clockSeconds (s : State) : Nat := 3600 * s.hour + 60 * s.minute + s.sec

/-- The seconds R176 adds: 2 on a leap tick, else 1. -/
def leapStep (s : State) : Nat := if s.leap + 1 = s.build.leapPeriod then 2 else 1

/-- `f` applied `n` times. -/
def iterateState (f : State → State) : Nat → State → State
  | 0, s => s
  | n + 1, s => iterateState f n (f s)

/-- The same raw decision `r` given to `Debounce` for `k` steps. -/
def debounceFor (n1 n2 : Nat) (r : Bool) : Nat → OutChan → OutChan
  | 0, o => o
  | k + 1, o => debounceFor n1 n2 r k (o.debounce n1 n2 r)

/-- What OutputStep may look at (R213). -/
def SameOutputInputs (s t : State) : Prop :=
  s.build = t.build ∧ s.sp = t.sp ∧ s.out = t.out ∧
    s.sensor.s0.temp = t.sensor.s0.temp ∧ s.sensor.s1.temp = t.sensor.s1.temp ∧
    s.sensor.s0.valid = t.sensor.s0.valid ∧ s.sensor.s1.valid = t.sensor.s1.valid

/-- The raw decision of R202, clause by clause, for thresholds in tenths. -/
def DecidesTo (on off src : Int) (valid prev r : Bool) : Prop :=
  (valid = false → r = false) ∧
  (valid = true → off < on → on ≤ src → r = true) ∧
  (valid = true → off < on → src ≤ off → r = false) ∧
  (valid = true → off < on → off < src → src < on → r = prev) ∧
  (valid = true → on ≤ off → src ≤ on → r = true) ∧
  (valid = true → on ≤ off → on < src → off ≤ src → r = false) ∧
  (valid = true → on ≤ off → on < src → src < off → r = prev)

/-- The debounce of R207, clause by clause: `o` is the channel before the step, `o'` after it, `r` the raw decision. -/
def DebouncesTo (n1 n2 : Nat) (o o' : OutChan) (r : Bool) : Prop :=
  o'.cur = r ∧
  (r ≠ o.cur → o'.cnt.toNat = 0) ∧
  (r = o.cur → o'.cnt.toNat = min (o.cnt.toNat + 1) 255) ∧
  (n1 - 1 ≤ o'.cnt.toNat → o'.st1 = r) ∧ (o'.cnt.toNat < n1 - 1 → o'.st1 = o.st1) ∧
  (n2 - 1 ≤ o'.cnt.toNat → o'.st2 = r) ∧ (o'.cnt.toNat < n2 - 1 → o'.st2 = o.st2)

/-- The channel-1 source and validity of R203. -/
def Channel1Source (s : State) (src : Int) (valid : Bool) : Prop :=
  match s.build.ch1Source with
  | .either =>
    src = (if s.sp[1].toInt < s.sp[0].toInt then max s.sensor.s0.temp.toInt s.sensor.s1.temp.toInt
      else min s.sensor.s0.temp.toInt s.sensor.s1.temp.toInt) ∧
    valid = (s.sensor.s0.valid && s.sensor.s1.valid)
  | .sensor0 => src = s.sensor.s0.temp.toInt ∧ valid = s.sensor.s0.valid
  | .sensor1 => src = s.sensor.s1.temp.toInt ∧ valid = s.sensor.s1.valid

/-- The engine runs command `i` in the turn: a write of CMD encodes it (R65), or it is the body of an enabled automatic
cycle (R235). -/
def RunsCommand (s : State) (turn : Turn) (i : Instr) : Prop :=
  (∃ w, turn = .hostWrite 0x00 w ∧ decode w = .command i) ∨
    (i = .acquireCycle ∧ turn = .autoCycle ∧ s.auto = true ∧ s.ticks ≠ 0)

/-- What the bus answers while one channel is read (R173): no presence, or presence and nine bytes. -/
def channelAnswers : Option (Vector Byte 9) → List Bool
  | none => [true]
  | some b => false :: b.toList.flatMap byteBits

/-- The bus events of `ReadChannel` for directory entry `i` with such an answer: select, the read command, the bytes
(R151, R173). -/
def channelEvents (s : State) (i : Nat) : Option (Vector Byte 9) → List BusEvent
  | none => [.reset false]
  | some b => .reset true :: writeSlots s.build.cmdMatch ++ (s.dirEntry i).toList.flatMap writeSlots ++
      writeSlots s.build.cmdReadSp ++ b.toList.flatMap (fun v => readSlots v 8)

/-- CRC after such an answer (R173). -/
def crcAfterChannel (form : CrcForm) (crc : Byte) : Option (Vector Byte 9) → Byte
  | none => crc
  | some b => crcFold form 0 b.toList

/-- What such an answer makes of a channel's reading (R173): `c` before, `c'` after. -/
def JudgesTo (b : Build) (c c' : SensorChan) : Option (Vector Byte 9) → Prop
  | none => c' = { c with valid := false, cause := .busTimeout }
  | some v =>
    (crcFold b.crcForm 0 v.toList = 0 →
      c' = { c with temp := convert b.tempRounding (v[1] ++ v[0]), valid := true, cause := .ok }) ∧
    (crcFold b.crcForm 0 v.toList ≠ 0 → c' = { c with valid := false, cause := .checksumMismatch })

/-- ERR and RESULT of READ_ALL, from the readings it leaves (R174). -/
def ReportsReadings (t : State) : Prop :=
  t.err = (if t.sensor.s0.cause = .ok then t.sensor.s1.cause else t.sensor.s0.cause) ∧
    t.result.toNat = t.sensor.s0.valid.toNat + 2 * t.sensor.s1.valid.toNat

/-- The history of channel `ch` after a cycle from `s` to `t` (R175, R177, R180): the slot an hour roll opened holds the
sentinels; else the slot that was current takes in a valid TEMP, and every other slot stays. -/
def HistoryFollows (s t : State) (ch : Sensor) (k : Fin 24) : Prop :=
  (t.hourRolled = true → k = t.histIdx → (t.sensor.get ch).hist[k] = { lo := 0x7FFF, hi := 0x8000 }) ∧
  (t.hourRolled = false ∨ k ≠ t.histIdx →
    (k = s.histIdx → (t.sensor.get ch).valid = true →
      (t.sensor.get ch).hist[k].lo.toInt = min (s.sensor.get ch).hist[k].lo.toInt (t.sensor.get ch).temp.toInt ∧
      (t.sensor.get ch).hist[k].hi.toInt = max (s.sensor.get ch).hist[k].hi.toInt (t.sensor.get ch).temp.toInt) ∧
    (k ≠ s.histIdx ∨ (t.sensor.get ch).valid = false →
      (t.sensor.get ch).hist[k] = (s.sensor.get ch).hist[k]))

/-- The search state and everything else but the clock, the readings, the outputs, the line, CRC, SCRATCH, PRESENCE, ERR
and RESULT: what a cycle leaves alone (R180). -/
def KeptByCycle (s t : State) : Prop :=
  t.rom = s.rom ∧ t.ld = s.ld ∧ t.ldf = s.ldf ∧ t.found = s.found ∧ t.dirCount = s.dirCount ∧ t.dir = s.dir ∧
    t.sp = s.sp ∧ t.spLoaded = s.spLoaded ∧ t.auto = s.auto ∧ t.ticks = s.ticks ∧ t.lastCmd = s.lastCmd ∧
    t.build = s.build ∧ t.sched = s.sched ∧ t.readData = s.readData ∧ t.powerOns = s.powerOns

/-- The default phase durations of R111. -/
def standardTiming : Timing := {}

/-- The bus time a step from `s` to `t` takes (R270). -/
def BusTimeOf (s t : State) (us : Nat) : Prop :=
  busTime standardTiming t.wire.trace = us + busTime standardTiming s.wire.trace

/-- The order of R153: `a` comes before `b` iff at their first differing bit position `a` has 0. -/
def ComesBefore (a b : Address) : Prop :=
  ∃ p, 1 ≤ p ∧ p ≤ 64 ∧ romBit a p = false ∧ romBit b p = true ∧ ∀ q, 1 ≤ q → q < p → romBit a q = romBit b q

/-- An address whose CRC byte is correct (R121, R145). -/
def AddressChecks (form : CrcForm) (a : Address) : Prop := crcFold form 0 a.toList = 0

end Sys2Proof.Machine

open Sys2Proof Sys2Proof.Machine

/-! ### Encoding -/

/-- R96: decoding the assembled word of a well-formed command gives the command back, for every operand. -/
def Obligations.DecodeOfEncode : Prop :=
  ∀ i : Instr, i.WellFormed → decode (encode i) = .command i

/-- R95: a word that decodes to a command is the assembled word of that command, which is well formed. The spec marks
R95 as its own inference. -/
def Obligations.EncodeOfDecode : Prop :=
  ∀ (w : Word) (i : Instr), decode w = .command i → encode i = w ∧ i.WellFormed

/-- R93: exactly the listed opcode values are illegal, and writing such a word sets ERR and RESULT and nothing else but
LASTCMD. -/
def Obligations.IllegalOpcodesOnlySetErr : Prop :=
  ∀ (s : State) (w : Word),
    (decode w = .illegalCommand ↔ illegalOpcode (w.toNat % 256) = true) ∧
    (illegalOpcode (w.toNat % 256) = true →
      memWrite s 0 w = .next { s with lastCmd := w, err := .illegalCommand, result := 0 })

/-- R94: a listed opcode whose operand breaks its class is refused before any effect; an illegal opcode is reported as
such whatever its operand. -/
def Obligations.BadOperandsOnlySetErr : Prop :=
  ∀ (s : State) (w : Word),
    (((w.toNat % 256 ∈ classNOpcodes ∧ w.toNat / 256 ≠ 0) ∨ (w.toNat % 256 = 0x02 ∧ 2 ≤ w.toNat / 256)) →
      decode w = .badOperand ∧
      memWrite s 0 w = .next { s with lastCmd := w, err := .badOperand, result := 0 }) ∧
    (illegalOpcode (w.toNat % 256) = true → decode w = .illegalCommand) ∧
    decode 0x0102 = .command (.owWriteBit true) ∧ decode 0x0202 = .badOperand

/-- R92, R96: words written out from the encoding table decode to their commands. -/
def Obligations.TableWordsDecode : Prop :=
  decode 0b0000000000000000#16 = .command .nop ∧
  decode 0b0000000100000010#16 = .command (.owWriteBit true) ∧
  decode 0b1100110000000100#16 = .command (.owWriteByte 0xCC) ∧
  decode 0b0000000000001010#16 = .command .discoverAll ∧
  decode 0b0000000100001011#16 = .command (.select 1) ∧
  decode 0b0000000000010101#16 = .command .acquireCycle ∧
  decode 0b0000000000011000#16 = .command .outputUpdate

/-! ### The step and the serial order -/

/-- R65: a step whose turn is a write of CMD sets LASTCMD and executes the command the word encodes; a read of CMD gives
LASTCMD; no other register write acts on the bus. -/
def Obligations.StepExecutesTheWrittenCommand : Prop :=
  ∀ (s : State) (w : Word) (rest : List Turn),
    s.sched = .hostWrite 0x00 w :: rest →
    (∀ i, decode w = .command i → step s = exec i { s with sched := rest, lastCmd := w }) ∧
    (decode w = .illegalCommand →
      step s = .next { s with sched := rest, lastCmd := w, err := .illegalCommand, result := 0 }) ∧
    (decode w = .badOperand →
      step s = .next { s with sched := rest, lastCmd := w, err := .badOperand, result := 0 }) ∧
    memRead s 0x00 = s.lastCmd ∧
    (∀ (a : Byte) (v : Word) (t : State), a ≠ 0x00 → memWrite s a v = .next t → t.wire = s.wire)

/-- R79: a host read gives the register and changes nothing. That the read data is recorded is the model's (log 12). That
a second read agrees also where it shows an unloaded setpoint, which R68 calls unspecified, is the model's choice (log 6,
DEDUCED). -/
def Obligations.HostReadsHaveNoSideEffect : Prop :=
  ∀ (s : State) (a : Byte) (rest : List Turn), s.sched = .hostRead a :: rest →
    ∃ t, step s = .next t ∧ t = { s with sched := rest, readData := memRead s a } ∧ ∀ a', memRead t a' = memRead s a'

/-- R234: a tick increments TICKS, saturating at 255, and writes nothing else. -/
def Obligations.TickSaturates : Prop :=
  ∀ (s : State) (rest : List Turn), s.sched = .tick :: rest →
    step s = .next { s with sched := rest, ticks := BitVec.ofNat 8 (min (s.ticks.toNat + 1) 255) }

/-- R235: enabled, the automatic cycle clears TICKS, whatever its value, and then does what ACQUIRE_CYCLE does; with the
setpoints loaded it completes, and LASTCMD stays. It is not taken when AUTO = 0 or TICKS = 0; that the engine's turn then
leaves the state as it is, is the model's choice (log 5). -/
def Obligations.AutomaticCycle : Prop :=
  ∀ (s : State) (rest : List Turn), s.sched = .autoCycle :: rest →
    (s.auto = true → s.ticks ≠ 0 → step s = exec .acquireCycle { s with sched := rest, ticks := 0 }) ∧
    (s.auto = true → s.ticks ≠ 0 → s.setpointsLoaded = true →
      ∃ t, step s = .next t ∧ t.ticks = 0 ∧ t.lastCmd = s.lastCmd ∧ t.sched = rest) ∧
    (s.auto = false ∨ s.ticks = 0 → step s = .next { s with sched := rest })

/-- R261: after power-on the engine is idle, and `n` ticks only count up TICKS, saturating at 255; nothing happens on
the bus. That a step with no turn placed leaves the state as it is, is the model's choice (log 5, log 10). The spec marks
R261 as its own inference. -/
def Obligations.IdleAfterPowerOn : Prop :=
  ∀ (b : Build) (n : Nat),
    step (State.powerOn b) = .next (State.powerOn b) ∧
    Sys2Proof.core.run n { State.powerOn b with sched := List.replicate n .tick } =
      .next { State.powerOn b with ticks := BitVec.ofNat 8 (min n 255) }

/-- R260: power-on sets every state element to its reset value and does not reset the devices on the bus. The unspecified
SCRATCH and SP are not mentioned. That the bus trace, the schedule and the build stay is the model's (log 13, DEDUCED). -/
def Obligations.PowerOnResetsTheBlockOnly : Prop :=
  ∀ (s : State) (rest : List Turn), s.sched = .powerOn :: rest →
    ∃ t, step s = .next t ∧ t.wire = { s.wire with drv := false } ∧ t.crc = 0 ∧
      (∀ p, romBit t.rom p = false) ∧ t.ld = 0 ∧ t.ldf = false ∧ t.found = false ∧ t.dirCount = 0 ∧
      t.dir.length = s.build.dirCap ∧ (∀ i p, romBit (t.dirEntry i) p = false) ∧
      t.sensor.s0.temp = 0 ∧ t.sensor.s1.temp = 0 ∧ t.sensor.s0.valid = false ∧ t.sensor.s1.valid = false ∧
      t.sensor.s0.cause = .invalidReading ∧ t.sensor.s1.cause = .invalidReading ∧
      (∀ k : Fin 24, t.sensor.s0.hist[k] = { lo := 0x7FFF, hi := 0x8000 } ∧
        t.sensor.s1.hist[k] = { lo := 0x7FFF, hi := 0x8000 }) ∧
      t.histIdx = 0 ∧ t.hoursSeen = 0 ∧ t.sec = 0 ∧ t.minute = 0 ∧ t.hour = 0 ∧ t.leap = 0 ∧
      (∀ i : Fin 4, t.spLoaded[i] = false) ∧
      (∀ o ∈ [t.out.c1, t.out.c2], o.cur = false ∧ o.cnt = 0 ∧ o.st1 = false ∧ o.st2 = false) ∧
      t.auto = false ∧ t.ticks = 0 ∧ t.err = .ok ∧ t.presence = false ∧ t.hourRolled = false ∧
      t.result = 0 ∧ t.lastCmd = 0 ∧ t.build = s.build ∧ t.sched = rest

/-- R117: no bus activity happens between commands. Only a command write and an automatic cycle reach the line. -/
def Obligations.NoBusActivityBetweenCommands : Prop :=
  ∀ (s t : State) (turn : Turn), takeTurn s turn = .next t →
    (∀ v, turn ≠ .hostWrite 0x00 v) → (turn = .autoCycle → s.auto = false ∨ s.ticks = 0) →
    t.wire.trace = s.wire.trace

/-! ### Invariants -/

/-- R49: every step keeps the invariants, from every state that has them. The spec marks R49 as its own inference;
that it is inductive is the model's. -/
def Obligations.StepKeepsInv : Prop :=
  ∀ s t : State, s.Inv → step s = .next t → t.Inv

/-- R49: the invariants hold after power-on, for every valid build, and in the machine's reset state. The spec marks
R49 as its own inference. -/
def Obligations.PowerOnHasInv : Prop :=
  (∀ b : Build, b.Valid → (State.powerOn b).Inv) ∧ State.reset.Inv

/-- R50: the configuration is no run-time state: no step changes it. -/
def Obligations.StepKeepsBuild : Prop :=
  ∀ s t : State, step s = .next t → t.build = s.build

/-! ### Whole-machine rules -/

/-- R140: nothing but a search command changes LD, LDF or ROM, whichever agent takes its turn; FOUND likewise (R26).
Power-on, which gives them their reset values (R260), is the one exception. The spec marks the sentence of R140 as its
own inference. -/
def Obligations.OnlySearchChangesSearchState : Prop :=
  (∀ (i : Instr) (s t : State), exec i s = .next t → i ≠ .searchFirst → i ≠ .searchNext → i ≠ .discoverAll →
    t.ld = s.ld ∧ t.ldf = s.ldf ∧ t.rom = s.rom ∧ t.found = s.found) ∧
  (∀ (turn : Turn) (s t : State), takeTurn s turn = .next t → turn ≠ .powerOn →
    ¬RunsCommand s turn .searchFirst → ¬RunsCommand s turn .searchNext → ¬RunsCommand s turn .discoverAll →
    t.ld = s.ld ∧ t.ldf = s.ldf ∧ t.rom = s.rom ∧ t.found = s.found)

/-- R27, R28: no command but DISCOVER_ALL changes the directory. -/
def Obligations.OnlyDiscoveryChangesDirectory : Prop :=
  ∀ (i : Instr) (s t : State), exec i s = .next t → i ≠ .discoverAll → t.dir = s.dir ∧ t.dirCount = s.dirCount

/-- R38, R44: no command writes a setpoint or AUTO; R45, R48: none writes TICKS or LASTCMD by itself. -/
def Obligations.CommandsNeverWriteHostRegisters : Prop :=
  ∀ (i : Instr) (s t : State), exec i s = .next t →
    t.sp = s.sp ∧ t.spLoaded = s.spLoaded ∧ t.auto = s.auto ∧ t.ticks = s.ticks ∧ t.lastCmd = s.lastCmd ∧
      t.sched = s.sched ∧ t.powerOns = s.powerOns ∧ t.readData = s.readData

/-- R241: the pins are the stage-1 bits with no inversion. CUR, CNT, ST1 and ST2 change only in a turn that runs
OutputStep, that is OUTPUT_UPDATE, ACQUIRE_CYCLE or an automatic cycle, and at power-on (R260). -/
def Obligations.PinsChangeOnlyInOutputStep : Prop :=
  (∀ (i : Instr) (s t : State), exec i s = .next t → i ≠ .outputUpdate → i ≠ .acquireCycle → t.out = s.out) ∧
  (∀ (turn : Turn) (s t : State), takeTurn s turn = .next t → turn ≠ .powerOn →
    ¬RunsCommand s turn .outputUpdate → ¬RunsCommand s turn .acquireCycle →
    t.out = s.out ∧ pinOut1 t = pinOut1 s ∧ pinOut2 t = pinOut2 s) ∧
  (∀ s : State, pinOut1 s = (memRead s 0x18).getLsbD 0 ∧ pinOut2 s = (memRead s 0x18).getLsbD 1)

/-- R233: after its decode a command writes only the error codes its row of the table lists. -/
def Obligations.CommandsWriteTheirErrorCodes : Prop :=
  ∀ (i : Instr) (s t : State), exec i s = .next t → t.err ∈ allowedErrors i

/-- R210: OutputStep faults the model while a setpoint is not loaded. -/
def Obligations.UnloadedSetpointsFault : Prop :=
  ∀ (s : State) (i : Fin 4), s.spLoaded[i] = false →
    exec .outputUpdate s = .fault .setpointBeforeLoad ∧ exec .acquireCycle s = .fault .setpointBeforeLoad

/-! ### Host registers -/

/-- R63: a reserved address reads 0, and a write to it has no effect. -/
def Obligations.ReservedAddressesReadZero : Prop :=
  ∀ (s : State) (a : Byte) (v : Word), reservedAddress a.toNat = true →
    memRead s a = 0 ∧ memWrite s a v = .next s

/-- R64: a write to a register that is not writable has no effect; the reserved bits of CTRL are ignored and read 0. -/
def Obligations.ReadOnlyRegistersIgnoreWrites : Prop :=
  ∀ (s : State) (a : Byte) (v : Word),
    (a ∉ writableAddresses → memWrite s a v = .next s) ∧
    memWrite s 0x03 v = .next { s with auto := v.getLsbD 0 } ∧
    memRead s 0x03 = (if s.auto then 0x0001 else 0x0000)

/-- R68: a setpoint write clamps to the channel's range, marks the setpoint loaded and touches nothing else; a read gives
the sign-extended setpoint. Before the first write R68 says only that the value is unspecified; that the read lies in the
channel's range is the draw of 93_implementation_defined.md I7, which the model makes by a clamp of its free value, its
own choice (log 6). -/
def Obligations.SetpointRegistersClamp : Prop :=
  ∀ (s : State) (i : Fin 4) (v : Word),
    (∃ t, memWrite s (0x14 + BitVec.ofNat 8 i.val) v = .next t ∧
      t = { s with sp := t.sp, spLoaded := t.spLoaded } ∧
      t.sp[i].toInt = min (max v.toInt (setpointFloor i)) 100 ∧ t.spLoaded[i] = true ∧
      ∀ j : Fin 4, j ≠ i → t.sp[j] = s.sp[j] ∧ t.spLoaded[j] = s.spLoaded[j]) ∧
    (s.spLoaded[i] = true → (memRead s (0x14 + BitVec.ofNat 8 i.val)).toInt = s.sp[i].toInt) ∧
    (s.spLoaded[i] = false →
      setpointFloor i ≤ (memRead s (0x14 + BitVec.ofNat 8 i.val)).toInt ∧
      (memRead s (0x14 + BitVec.ofNat 8 i.val)).toInt ≤ 100)

/-- R62, R66: the packed registers, as numbers. LEAP is the low 8 bits (log 14). -/
def Obligations.PackedRegistersShowTheirFields : Prop :=
  ∀ s : State, s.Inv →
    (memRead s 0x01).toNat =
      s.err.code.toNat + 16 * s.presence.toNat + 32 * s.found.toNat + 64 * s.hourRolled.toNat ∧
    (memRead s 0x02) = s.result ∧
    (memRead s 0x04).toNat = s.crc.toNat ∧
    (memRead s 0x05).toNat = s.ld + 256 * s.ldf.toNat ∧
    (∀ k : Fin 4, (memRead s (0x06 + BitVec.ofNat 8 k.val)).toNat =
      (s.rom.getD (2 * k.val) 0).toNat + 256 * (s.rom.getD (2 * k.val + 1) 0).toNat) ∧
    (memRead s 0x0A).toNat = s.dirCount ∧ (memRead s 0x0B).toNat = s.ticks.toNat ∧
    memRead s 0x10 = s.sensor.s0.temp ∧ memRead s 0x11 = s.sensor.s1.temp ∧
    (memRead s 0x12).toNat = s.sensor.s0.valid.toNat + 2 * s.sensor.s1.valid.toNat +
      256 * s.sensor.s0.cause.code.toNat + 4096 * s.sensor.s1.cause.code.toNat ∧
    (memRead s 0x18).toNat = s.out.c1.st1.toNat + 2 * s.out.c2.st1.toNat + 4 * s.out.c1.st2.toNat +
      8 * s.out.c2.st2.toNat + 16 * s.out.c1.cur.toNat + 32 * s.out.c2.cur.toNat ∧
    (memRead s 0x19).toNat = s.out.c1.cnt.toNat + 256 * s.out.c2.cnt.toNat ∧
    (memRead s 0x1A).toNat = s.sec ∧ (memRead s 0x1B).toNat = s.minute ∧ (memRead s 0x1C).toNat = s.hour ∧
    (memRead s 0x1D).toNat = s.hoursSeen ∧ (memRead s 0x1E).toNat = s.histIdx.val ∧
    (memRead s 0x1F).toNat = s.leap % 256

/-- R72: the DIR window shows two bytes of an entry per register, 0 beyond DIR_CAP and beyond DIRCOUNT. -/
def Obligations.DirWindowShowsTheDirectory : Prop :=
  ∀ (s : State) (i : Fin 16) (k : Fin 4), s.Inv →
    (i.val < s.build.dirCap →
      (memRead s (0x40 + BitVec.ofNat 8 (4 * i.val + k.val))).toNat =
        ((s.dirEntry i.val).getD (2 * k.val) 0).toNat + 256 * ((s.dirEntry i.val).getD (2 * k.val + 1) 0).toNat) ∧
    (s.dirCount ≤ i.val → memRead s (0x40 + BitVec.ofNat 8 (4 * i.val + k.val)) = 0)

/-- R73: the HIST window is offset-relative: offset `off` of a channel is slot (HIST_IDX - off) mod 24. -/
def Obligations.HistWindowIsOffsetRelative : Prop :=
  ∀ (s : State) (ch : Fin 2) (off slot : Fin 24), (slot.val + off.val) % 24 = s.histIdx.val →
    memRead s (0x80 + BitVec.ofNat 8 (48 * ch.val + 2 * off.val)) =
      ((if ch = 0 then s.sensor.s0 else s.sensor.s1).hist[slot]).lo ∧
    memRead s (0x80 + BitVec.ofNat 8 (48 * ch.val + 2 * off.val + 1)) =
      ((if ch = 0 then s.sensor.s0 else s.sensor.s1).hist[slot]).hi

/-! ### Bus primitives and CRC -/

/-- R119: OW_RESET completes with the presence sample in PRESENCE and RESULT, BUS_TIMEOUT when there is none, and touches
nothing else. Presence is the line sampled low (R112). -/
def Obligations.OwResetReportsPresence : Prop :=
  ∀ s : State, ∃ (p : Bool) (t : State), exec .owReset s = .next t ∧ p = !s.wire.env.presenceLevel s.wire.trace ∧
    t = { s with
      wire := { drv := false, env := s.wire.env.after (.reset p), trace := .reset p :: s.wire.trace }
      presence := p
      err := if p then .ok else .busTimeout
      result := if p then 1 else 0 }

/-- R122, R124: OW_WRITE_BIT and OW_WRITE_BYTE complete, put exactly their slots on the bus, least significant bit first,
and write only ERR and RESULT. -/
def Obligations.WriteCommandsSendTheirSlots : Prop :=
  ∀ s : State,
    (∀ b : Bool, ∃ t, exec (.owWriteBit b) s = .next t ∧ BusEvents s t [.write b] ∧ t.wire.drv = false ∧
      t = { s with wire := t.wire, err := .ok, result := 0 }) ∧
    (∀ v : Byte, ∃ t, exec (.owWriteByte v) s = .next t ∧ BusEvents s t (writeSlots v) ∧ t.wire.drv = false ∧
      t = { s with wire := t.wire, err := .ok, result := 0 })

/-- R123, R125: OW_READ_BIT and OW_READ_BYTE complete with the line levels sampled in their slots (R114, R118), the first
bit of a byte in bit 0 (R116), and write only ERR and RESULT; an empty bus (the reference model, log 4) reads 1 and
0xFF. -/
def Obligations.ReadCommandsReturnTheBitsRead : Prop :=
  ∀ s : State,
    (∃ t b, exec .owReadBit s = .next t ∧ b = s.wire.env.readLevel s.wire.trace ∧ t.result.toNat = b.toNat ∧
      BusEvents s t [.read b] ∧ t.wire.env = s.wire.env.after (.read b) ∧
      t.wire.drv = false ∧ t = { s with wire := t.wire, err := .ok, result := t.result } ∧
      (s.wire.env = .devices [] → b = true)) ∧
    (∃ t v, exec .owReadByte s = .next t ∧ t.result.toNat = BitVec.toNat (w := 8) v ∧
      byteBits v = (s.wire.readBits 8).1 ∧
      (∀ k, k < 8 → v.getLsbD k =
        ((readSlots v k).foldl BusEnv.after s.wire.env).readLevel ((readSlots v k).reverse ++ s.wire.trace)) ∧
      BusEvents s t (readSlots v 8) ∧ t.wire.env = (readSlots v 8).foldl BusEnv.after s.wire.env ∧
      t.wire.drv = false ∧ t = { s with wire := t.wire, err := .ok, result := t.result } ∧
      (s.wire.env = .devices [] → v = 0xFF))

/-- R126, R127, R240: NOP, CRC_CLEAR and CRC_UPDATE complete, write ERR, RESULT and (not NOP) CRC, and leave all else. -/
def Obligations.NopAndCrcCommandsComplete : Prop :=
  ∀ s : State,
    exec .nop s = .next { s with err := .ok, result := 0 } ∧
    exec .crcClear s = .next { s with crc := 0, err := .ok, result := 0 } ∧
    ∀ v : Byte, ∃ t, exec (.crcUpdate v) s = .next t ∧ t.crc = crcStep s.build.crcForm s.crc v ∧
      t.result.toNat = t.crc.toNat ∧ t = { s with crc := t.crc, err := .ok, result := t.result }

/-- R120: the two register forms are bit reverses of each other. The spec marks the sentence of R120 as its own
inference. -/
def Obligations.CrcFormsAreBitReverses : Prop :=
  ∀ a b : Byte, crcStep .msb31 (bitrev8 a) b = bitrev8 (crcStep .lsb8c a b)

/-- R121: for each prefix exactly one final byte checks; a message followed by its on-wire CRC byte folds to 0 in both
forms; an all-zero message always checks. The spec marks R121 as its own inference. -/
def Obligations.CrcResidue : Prop :=
  (∀ a b : Byte, (crcStep .msb31 a b = 0 ↔ b = bitrev8 a) ∧ (crcStep .lsb8c a b = 0 ↔ b = a)) ∧
  (∀ (form : CrcForm) (m : List Byte), crcFold form 0 (m ++ [crcFold .lsb8c 0 m]) = 0) ∧
  (∀ m : List Byte, crcFold .lsb8c 0 m = bitrev8 (crcFold .msb31 0 m)) ∧
  (∀ (form : CrcForm) (n : Nat), crcFold form 0 (List.replicate n 0) = 0)

/-- R98: after the commands of CRC_CHECK the machine shows RESULT = 0 iff the bytes end in their correct CRC. -/
def Obligations.CrcCheckProgram : Prop :=
  ∀ (s : State) (m : List Byte) (c : Byte), s.sched = (Pseudo.crcCheck (m ++ [c])).expand s.build →
    ∃ t, Sys2Proof.core.run (m.length + 2) s = .next t ∧ (t.result = 0 ↔ c = crcFold .lsb8c 0 m) ∧
      t.wire = s.wire ∧ t.err = .ok ∧ t.sched = []

/-! ### Search, directory and select -/

/-- R148, R149: a search command completes; RESULT is FOUND, which is 1 exactly when ERR is OK; it writes only the search
state, CRC, PRESENCE, ERR and RESULT, and the line. -/
def Obligations.SearchCommandsComplete : Prop :=
  ∀ (s : State) (first : Bool), ∃ t, exec (searchCommand first) s = .next t ∧
    t.result.toNat = t.found.toNat ∧ (t.found = true ↔ t.err = .ok) ∧
    t = { s with
      wire := t.wire, crc := t.crc, rom := t.rom, ld := t.ld, ldf := t.ldf, found := t.found,
      presence := t.presence, err := t.err, result := t.result }

/-- R147: every failing pass resets LD, LDF and FOUND. BUS_TIMEOUT and SEARCH_EXHAUSTED leave ROM and CRC; the latter has
no bus activity. SEARCH_NO_DEVICE at a position leaves that bit and those after it. -/
def Obligations.FailedPassResetsSearchState : Prop :=
  ∀ (s t : State) (first : Bool), exec (searchCommand first) s = .next t → t.err ≠ .ok →
    t.ld = 0 ∧ t.ldf = false ∧ t.found = false ∧
    (t.err = .busTimeout → t.rom = s.rom ∧ t.crc = s.crc ∧ BusEvents s t [.reset false]) ∧
    (t.err = .searchExhausted → first = false ∧ s.ldf = true ∧ t.rom = s.rom ∧ t.crc = s.crc ∧ t.wire = s.wire) ∧
    (t.err = .searchNoDevice → ∃ (p : Nat) (evs : List BusEvent), 1 ≤ p ∧ p ≤ 64 ∧ BusEvents s t evs ∧
      evs.length = 11 + 3 * (p - 1) ∧ evs[9 + 3 * (p - 1)]? = some (.read true) ∧
      evs[10 + 3 * (p - 1)]? = some (.read true) ∧ ∀ q, p ≤ q → q ≤ 64 → romBit t.rom q = romBit s.rom q) ∧
    (t.err = .checksumMismatch → t.crc ≠ 0)

/-- R149, C2: SEARCH_NEXT after the last device reports SEARCH_EXHAUSTED without bus activity, and the call after it is a
fresh first call. -/
def Obligations.ExhaustedSearchStartsOver : Prop :=
  ∀ s : State, s.ldf = true → ∃ t, exec .searchNext s = .next t ∧
    t = { s with ld := 0, ldf := false, found := false, err := .searchExhausted, result := 0 } ∧
    exec .searchNext t = exec .searchFirst t

/-- R141-R146: a successful pass sends a reset, the search command byte and 64 read-read-write triples. At every position
the direction is the one R142 and R143 prescribe and stands in ROM; LD is the highest position where 0 was taken at a
discrepancy (R144); the address checks (R145); LDF = 1 iff LD = 0 (R146). -/
def Obligations.SuccessfulPassFollowsTheTree : Prop :=
  ∀ (s t : State) (first : Bool), exec (searchCommand first) s = .next t → t.err = .ok →
    t.found = true ∧ t.crc = 0 ∧ AddressChecks s.build.crcForm t.rom ∧ t.ld ≤ 64 ∧ (t.ldf = true ↔ t.ld = 0) ∧
    ∃ evs : List BusEvent, BusEvents s t evs ∧ evs.length = 201 ∧
      evs.take 9 = .reset true :: writeSlots s.build.cmdSearch ∧
      (∀ p, 1 ≤ p → p ≤ 64 → ∃ b cb, SearchSlots evs p b cb (romBit t.rom p) ∧ ¬(b = true ∧ cb = true) ∧
        PrescribedDirection s.rom (ldAtStart first s) p b cb (romBit t.rom p)) ∧
      (t.ld ≠ 0 → ZeroChoice evs t.ld) ∧ (∀ p, t.ld < p → p ≤ 64 → ¬ZeroChoice evs p)

/-- R267 (vector V-S6): on a line stuck low (an environment of the model's own, log 4) SEARCH_FIRST reports an all-
zero address with LD = 64, and DISCOVER_ALL stores one all-zero address and ends with CHECKSUM_MISMATCH, for every
capacity of 2 or more. The spec marks R267 as its own inference. -/
def Obligations.HeldLineReadsAsZeros : Prop :=
  ∀ s : State, s.wire.env = .held →
    (∃ t, exec .searchFirst s = .next t ∧ t.err = .ok ∧ t.found = true ∧
      (∀ p, romBit t.rom p = false) ∧ t.ld = 64 ∧ t.crc = 0) ∧
    (2 ≤ s.build.dirCap → ∃ t, exec .discoverAll s = .next t ∧
      t.err = .checksumMismatch ∧ t.dirCount = 1 ∧ t.result = 1 ∧ (∀ p, romBit (t.dirEntry 0) p = false))

/-- R148: one device on the bus (the reference model, log 4) has no discrepancy: SEARCH_FIRST finds it with LD = 0 and
LDF = 1. -/
def Obligations.SingleDeviceIsFound : Prop :=
  ∀ (s : State) (d : Device), s.wire.env = .devices [d] → s.build.cmdSearch = 0xF0 →
    AddressChecks s.build.crcForm d.rom →
    ∃ t, exec .searchFirst s = .next t ∧ t.err = .ok ∧ t.found = true ∧ t.rom = d.rom ∧ t.ld = 0 ∧ t.ldf = true

/-- R154: with two devices on the bus (the reference model, log 4) find-first and find-next discover exactly the two,
in the order of R153, and a third call reports "no more devices". The spec marks R153 and R154 as its own inference.
-/
def Obligations.TwoDevicesAreEnumerated : Prop :=
  ∀ (s : State) (a b : Device), s.wire.env = .devices [a, b] ∨ s.wire.env = .devices [b, a] →
    s.build.cmdSearch = 0xF0 → AddressChecks s.build.crcForm a.rom → AddressChecks s.build.crcForm b.rom →
    ComesBefore a.rom b.rom →
    ∃ t1 t2 t3, exec .searchFirst s = .next t1 ∧ exec .searchNext t1 = .next t2 ∧ exec .searchNext t2 = .next t3 ∧
      t1.err = .ok ∧ t1.rom = a.rom ∧ t2.err = .ok ∧ t2.rom = b.rom ∧ t2.ldf = true ∧ t3.err = .searchExhausted

/-- R150: DISCOVER_ALL completes. It makes `n` passes, 1 to DIR_CAP of them (log 16): `u 0` is what SEARCH_FIRST leaves,
`u (k+1)` what SEARCH_NEXT leaves from `u k`, and each but the last finds a device that is not the last one. The entries
are the addresses those passes find, in order; they check, and the rest of the array is zero. A failing last pass ends it
with that pass's code; else the last device gives OK and a full directory before it DIRECTORY_FULL. RESULT is DIRCOUNT. It
writes only the directory, the search state, CRC (log 16), PRESENCE, ERR and RESULT, and the line, as the passes leave
them. -/
def Obligations.DiscoverAllFillsTheDirectory : Prop :=
  ∀ s : State, s.build.Valid → ∃ (t : State) (n : Nat) (u : Nat → State), exec .discoverAll s = .next t ∧
    1 ≤ n ∧ n ≤ s.build.dirCap ∧ exec .searchFirst s = .next (u 0) ∧
    (∀ k, k + 1 < n → (u k).err = .ok ∧ (u k).ldf = false ∧ exec .searchNext (u k) = .next (u (k + 1))) ∧
    ((u (n - 1)).err ≠ .ok → t.err = (u (n - 1)).err ∧ t.dirCount = n - 1) ∧
    ((u (n - 1)).err = .ok → t.dirCount = n ∧
      ((u (n - 1)).ldf = true → t.err = .ok) ∧
      ((u (n - 1)).ldf = false → t.err = .directoryFull ∧ n = s.build.dirCap)) ∧
    (∀ i, i < t.dirCount → t.dirEntry i = (u i).rom ∧ AddressChecks s.build.crcForm (t.dirEntry i)) ∧
    (∀ i p, t.dirCount ≤ i → romBit (t.dirEntry i) p = false) ∧
    t.dir.length = s.build.dirCap ∧ t.result.toNat = t.dirCount ∧
    t = { s with
      wire := (u (n - 1)).wire, crc := (u (n - 1)).crc, rom := (u (n - 1)).rom, ld := (u (n - 1)).ld,
      ldf := (u (n - 1)).ldf, found := (u (n - 1)).found, presence := (u (n - 1)).presence,
      dir := t.dir, dirCount := t.dirCount, err := t.err, result := t.result }

/-- R151, R152: SELECT completes. An index out of range has no bus activity; otherwise it sends a reset, the match
command and the address, family byte first; it writes only PRESENCE, ERR, RESULT and the line. That the statement holds
also for an index above 255, which has no word, and for an entry outside the directory array, which no reachable state
has below DIRCOUNT, is the model's choice (log 15, DESIGN CHOICE). -/
def Obligations.SelectAddressesOneDevice : Prop :=
  ∀ (s : State) (i : Nat),
    (s.dirCount ≤ i → exec (.select i) s = .next { s with err := .badIndex, result := 0 }) ∧
    (i < s.dirCount → ∃ t, exec (.select i) s = .next t ∧
      t = { s with wire := t.wire, presence := t.presence, err := t.err, result := t.result } ∧
      t.wire.drv = false ∧ t.presence = !s.wire.env.presenceLevel s.wire.trace ∧
      (t.presence = false → t.err = .busTimeout ∧ t.result = 0 ∧ BusEvents s t [.reset false]) ∧
      (t.presence = true → t.err = .ok ∧ t.result = 1 ∧
        BusEvents s t (.reset true :: writeSlots s.build.cmdMatch ++ (s.dirEntry i).toList.flatMap writeSlots)))

/-! ### Acquisition, history and clock -/

/-- R171: the conversion is 10/16 of the raw value, exact and rounded toward zero or, as a build may choose, toward
minus infinity; it lies in [-20480, 20479] and is no sentinel. The spec marks the range clause as its own inference.
-/
def Obligations.ConversionScales : Prop :=
  ∀ raw : Word,
    (convert .towardZero raw).toInt = Int.tdiv (10 * raw.toInt) 16 ∧
    (convert .floor raw).toInt = Int.fdiv (10 * raw.toInt) 16 ∧
    (∀ r, -20480 ≤ (convert r raw).toInt ∧ (convert r raw).toInt ≤ 20479 ∧
      convert r raw ≠ 0x7FFF ∧ convert r raw ≠ 0x8000) ∧
    ((convert .floor raw).toInt = (convert .towardZero raw).toInt -
      (if raw.toInt < 0 ∧ (10 * raw.toInt) % 16 ≠ 0 then 1 else 0))

/-- R172: START_CONVERSIONS completes; the broadcast is sent iff there was presence and a device was ever found; it writes
only PRESENCE, ERR, RESULT and the line. -/
def Obligations.StartConversionsBroadcasts : Prop :=
  ∀ s : State, ∃ (p : Bool) (t : State), exec .startConversions s = .next t ∧
    p = !s.wire.env.presenceLevel s.wire.trace ∧ t.wire.drv = false ∧
    t = { s with
      wire := t.wire, presence := p, err := if p then .ok else .busTimeout, result := if p then 1 else 0 } ∧
    (p = true → 0 < s.dirCount →
      BusEvents s t (.reset true :: writeSlots s.build.cmdSkip ++ writeSlots s.build.cmdConvert)) ∧
    (p = false ∨ s.dirCount = 0 → BusEvents s t [.reset p])

/-- R174, R179, R182: READ_ALL completes. A channel is valid iff its cause is OK; an invalid channel keeps its TEMP; a
channel without a directory slot is INVALID_READING; ERR is channel 0's cause, else channel 1's; RESULT holds the
validity bits; it writes only the readings, SCRATCH, CRC, PRESENCE, ERR, RESULT and the line. The spec marks R179 and
R182 as its own inference. -/
def Obligations.ReadAllJudgesBothChannels : Prop :=
  ∀ s : State, ∃ t, exec .readAll s = .next t ∧
    t.result.toNat = t.sensor.s0.valid.toNat + 2 * t.sensor.s1.valid.toNat ∧
    (t.sensor.s0.cause ≠ .ok → t.err = t.sensor.s0.cause) ∧ (t.sensor.s0.cause = .ok → t.err = t.sensor.s1.cause) ∧
    (∀ ch : Sensor,
      ((t.sensor.get ch).valid = true ↔ (t.sensor.get ch).cause = .ok) ∧
      ((t.sensor.get ch).valid = false → (t.sensor.get ch).temp = (s.sensor.get ch).temp) ∧
      (t.sensor.get ch).hist = (s.sensor.get ch).hist ∧
      (s.dirCount ≤ ch.slot → (t.sensor.get ch).cause = .invalidReading) ∧
      (ch.slot < s.dirCount → (t.sensor.get ch).cause ∈ [.ok, .busTimeout, .checksumMismatch])) ∧
    (s.dirCount = 0 → t.wire = s.wire ∧ t.crc = s.crc ∧ t.presence = s.presence) ∧
    t = { s with
      wire := t.wire, crc := t.crc, scratch := t.scratch, sensor := t.sensor, presence := t.presence,
      err := t.err, result := t.result }

/-- R173, R174: READ_ALL on a bus that answers each read, of either channel, with no presence or with presence and nine
given bytes; directories of one entry, and of two or more. Each channel selects its own directory entry, sends the read
command and reads nine bytes into SCRATCH. The reading is accepted iff the bytes fold to 0, and TEMP is then the
conversion of its first two bytes, low byte first; otherwise, and without presence, TEMP stays. ERR and RESULT follow. -/
def Obligations.ScratchpadIsReadAndChecked : Prop :=
  ∀ (s : State) (a0 a1 : Option (Vector Byte 9)) (rest : List Bool),
    (s.dirCount = 1 → s.wire.env = .script (channelAnswers a0 ++ rest) →
      ∃ t, exec .readAll s = .next t ∧ JudgesTo s.build s.sensor.s0 t.sensor.s0 a0 ∧
        t.sensor.s1 = { s.sensor.s1 with valid := false, cause := .invalidReading } ∧ ReportsReadings t ∧
        t.crc = crcAfterChannel s.build.crcForm s.crc a0 ∧ t.scratch = a0.getD s.scratch ∧
        t.presence = a0.isSome ∧ t.wire.env = .script rest ∧ BusEvents s t (channelEvents s 0 a0)) ∧
    (2 ≤ s.dirCount → s.wire.env = .script (channelAnswers a0 ++ channelAnswers a1 ++ rest) →
      ∃ t, exec .readAll s = .next t ∧ JudgesTo s.build s.sensor.s0 t.sensor.s0 a0 ∧
        JudgesTo s.build s.sensor.s1 t.sensor.s1 a1 ∧ ReportsReadings t ∧
        t.crc = crcAfterChannel s.build.crcForm (crcAfterChannel s.build.crcForm s.crc a0) a1 ∧
        t.scratch = a1.getD (a0.getD s.scratch) ∧ t.presence = a1.isSome ∧ t.wire.env = .script rest ∧
        BusEvents s t (channelEvents s 0 a0 ++ channelEvents s 1 a1))

/-- R175: UPDATE_MINMAX completes; the current slot of each valid channel is widened to include TEMP; every other slot, an
invalid channel and everything else stay; repeating the command changes nothing. -/
def Obligations.MinMaxWidensTheCurrentSlot : Prop :=
  ∀ s : State, ∃ t, exec .updateMinmax s = .next t ∧
    (∀ ch : Sensor, ∀ k : Fin 24,
      (k ≠ s.histIdx ∨ (s.sensor.get ch).valid = false → (t.sensor.get ch).hist[k] = (s.sensor.get ch).hist[k]) ∧
      (k = s.histIdx → (s.sensor.get ch).valid = true →
        (t.sensor.get ch).hist[k].lo.toInt = min (s.sensor.get ch).hist[k].lo.toInt (s.sensor.get ch).temp.toInt ∧
        (t.sensor.get ch).hist[k].hi.toInt = max (s.sensor.get ch).hist[k].hi.toInt (s.sensor.get ch).temp.toInt)) ∧
    (∀ ch : Sensor, (t.sensor.get ch).temp = (s.sensor.get ch).temp ∧
      (t.sensor.get ch).valid = (s.sensor.get ch).valid ∧ (t.sensor.get ch).cause = (s.sensor.get ch).cause) ∧
    t = { s with sensor := t.sensor, err := .ok, result := 0 } ∧
    exec .updateMinmax t = .next t

/-- R176: ADVANCE_CLOCK completes; the uptime advances by 1 second, or 2 on the leap tick, modulo a day; HOUR_ROLLED and
RESULT are 1 exactly when the minutes wrap from 59 to 0; it writes only the clock, HOUR_ROLLED, ERR and RESULT. -/
def Obligations.ClockAdvances : Prop :=
  ∀ s : State, ∃ t, exec .advanceClock s = .next t ∧
    t.result.toNat = t.hourRolled.toNat ∧
    t = { s with
      sec := t.sec, minute := t.minute, hour := t.hour, leap := t.leap, hourRolled := t.hourRolled,
      err := .ok, result := t.result } ∧
    (s.Inv → clockSeconds t = (clockSeconds s + leapStep s) % 86400 ∧ t.sec ≤ 59 ∧ t.minute ≤ 59 ∧
      t.leap = (s.leap + 1) % s.build.leapPeriod ∧
      (t.hourRolled = true ↔ s.minute = 59 ∧ 60 ≤ s.sec + leapStep s) ∧
      (t.hourRolled = true ↔ s.minute = 59 ∧ t.minute = 0))

/-- R37, R176: from midnight with LEAP = 0, `n` clock steps count `n` seconds and one leap second for every
LEAP_PERIOD steps, modulo a day. The spec marks the count as its own inference. -/
def Obligations.LeapSecondsAccumulate : Prop :=
  ∀ (s : State) (n : Nat), s.Inv → clockSeconds s = 0 → s.leap = 0 →
    clockSeconds (iterateState State.clockStep n s) = (n + n / s.build.leapPeriod) % 86400

/-- R177: HOUR_ROLLED completes; the index wraps modulo 24; the new slot of both channels holds the sentinels and every
other slot stays; HOURS_SEEN saturates at 23; RESULT is the new index; nothing else is written but ERR. -/
def Obligations.HourRollOpensASlot : Prop :=
  ∀ s : State, ∃ t, exec .hourRolled s = .next t ∧ t.histIdx.val = (s.histIdx.val + 1) % 24 ∧
    t.hoursSeen = min (s.hoursSeen + 1) 23 ∧ t.result.toNat = t.histIdx.val ∧
    (∀ ch : Sensor, ∀ k : Fin 24,
      (k = t.histIdx → (t.sensor.get ch).hist[k].lo.toInt = 32767 ∧ (t.sensor.get ch).hist[k].hi.toInt = -32768) ∧
      (k ≠ t.histIdx → (t.sensor.get ch).hist[k] = (s.sensor.get ch).hist[k])) ∧
    (∀ ch : Sensor, (t.sensor.get ch).temp = (s.sensor.get ch).temp ∧
      (t.sensor.get ch).valid = (s.sensor.get ch).valid ∧ (t.sensor.get ch).cause = (s.sensor.get ch).cause) ∧
    t = { s with
      histIdx := t.histIdx, hoursSeen := t.hoursSeen, sensor := t.sensor, err := .ok, result := t.result }

/-- R181: after 24 hour rolls, with anything in between that leaves the index alone, the index is back where it
started and that slot holds the sentinels of the latest roll. The spec marks R181 as its own inference. -/
def Obligations.HistoryWrapsAfterADay : Prop :=
  ∀ (s : State) (between : State → State), (∀ u, (between u).histIdx = u.histIdx) →
    (iterateState (fun u => (between u).hourRoll) 24 s).histIdx = s.histIdx ∧
    ∀ ch : Sensor,
      ((iterateState (fun u => (between u).hourRoll) 24 s).sensor.get ch).hist[s.histIdx] =
        { lo := 0x7FFF, hi := 0x8000 }

/-- R180: ACQUIRE_CYCLE completes once the setpoints are loaded. With presence at the conversion reset the readings, ERR
and the line are those of START_CONVERSIONS and then READ_ALL; without it both channels are BUS_TIMEOUT. In either case an
invalid channel keeps TEMP (R182); the history takes in the valid readings; CUR, CNT, ST1 and ST2 are what OUTPUT_UPDATE
leaves with the readings of this cycle; the clock runs; the history rolls exactly when the hour rolls. RESULT holds the
validity bits; the search state, the directory, the setpoints, AUTO, TICKS and LASTCMD stay. -/
def Obligations.AcquireCycleCompletes : Prop :=
  ∀ s : State, s.setpointsLoaded = true → ∃ t, exec .acquireCycle s = .next t ∧ KeptByCycle s t ∧
    t.result.toNat = t.sensor.s0.valid.toNat + 2 * t.sensor.s1.valid.toNat ∧
    (∀ ch : Sensor, ((t.sensor.get ch).valid = true ↔ (t.sensor.get ch).cause = .ok) ∧
      ((t.sensor.get ch).valid = false → (t.sensor.get ch).temp = (s.sensor.get ch).temp)) ∧
    (s.wire.env.presenceLevel s.wire.trace = true →
      t.err = .busTimeout ∧ t.sensor.s0.cause = .busTimeout ∧ t.sensor.s1.cause = .busTimeout ∧
      t.crc = s.crc ∧ t.scratch = s.scratch ∧ t.presence = false ∧ BusEvents s t [.reset false]) ∧
    (s.wire.env.presenceLevel s.wire.trace = false →
      (t.sensor.s0.cause ≠ .ok → t.err = t.sensor.s0.cause) ∧ (t.sensor.s0.cause = .ok → t.err = t.sensor.s1.cause) ∧
      ∃ p q, exec .startConversions s = .next p ∧ exec .readAll p = .next q ∧
        t.wire = q.wire ∧ t.crc = q.crc ∧ t.scratch = q.scratch ∧ t.presence = q.presence ∧ t.err = q.err ∧
        ∀ ch : Sensor, (t.sensor.get ch).temp = (q.sensor.get ch).temp ∧
          (t.sensor.get ch).valid = (q.sensor.get ch).valid ∧ (t.sensor.get ch).cause = (q.sensor.get ch).cause) ∧
    (∃ u, exec .outputUpdate { s with sensor := t.sensor } = .next u ∧ t.out = u.out) ∧
    t.sec = s.clockStep.sec ∧ t.minute = s.clockStep.minute ∧ t.hour = s.clockStep.hour ∧ t.leap = s.clockStep.leap ∧
    t.hourRolled = s.clockStep.hourRolled ∧
    (t.hourRolled = true → t.histIdx = s.histIdx + 1 ∧ t.hoursSeen = min (s.hoursSeen + 1) 23) ∧
    (t.hourRolled = false → t.histIdx = s.histIdx ∧ t.hoursSeen = s.hoursSeen) ∧
    (∀ (ch : Sensor) (k : Fin 24), HistoryFollows s t ch k)

/-! ### Output controller -/

/-- R200-R208: OUTPUT_UPDATE completes once the setpoints are loaded. Channel 1 is decided from its source and debounced;
channel 2 is decided from the absolute difference, coupled to the new ST2[1], and debounced; RESULT is the OUT register;
only CUR, CNT, ST1, ST2, ERR and RESULT are written. -/
def Obligations.OutputUpdateDecidesAndDebounces : Prop :=
  ∀ s : State, s.setpointsLoaded = true → ∃ t, exec .outputUpdate s = .next t ∧
    t.result = memRead t 0x18 ∧ t = { s with out := t.out, err := .ok, result := t.result } ∧
    (∃ src v r, Channel1Source s src v ∧
      DecidesTo (10 * s.sp[0].toInt) (10 * s.sp[1].toInt) src v s.out.c1.cur r ∧
      DebouncesTo s.build.n1 s.build.n2 s.out.c1 t.out.c1 r) ∧
    (∃ r, DecidesTo (10 * s.sp[2].toInt) (10 * s.sp[3].toInt)
        |s.sensor.s0.temp.toInt - s.sensor.s1.temp.toInt| (s.sensor.s0.valid && s.sensor.s1.valid) s.out.c2.cur r ∧
      DebouncesTo s.build.n1 s.build.n2 s.out.c2 t.out.c2 (r || t.out.c1.st2))

/-- R212: ST2[1] = 1 after channel 1's debounce forces channel 2's decision on in the same step; channel 2's physical
output still waits for its own debounce. The spec marks R212 as its own inference. -/
def Obligations.CouplingForcesChannel2 : Prop :=
  ∀ s t : State, exec .outputUpdate s = .next t → t.out.c1.st2 = true →
    t.out.c2.cur = true ∧ (t.out.c2.cnt.toNat < s.build.n1 - 1 → t.out.c2.st1 = s.out.c2.st1)

/-- R203, R205: an invalid reading forces the channel-1 decision off, whatever the dead band held; channel 2 is then
on only through the coupling. The spec marks how the pins follow as its own inference; no clause here says it. -/
def Obligations.InvalidReadingForcesOff : Prop :=
  ∀ s t : State, exec .outputUpdate s = .next t →
    (s.build.ch1Source = .either → (s.sensor.s0.valid && s.sensor.s1.valid) = false → t.out.c1.cur = false) ∧
    (s.build.ch1Source = .sensor0 → s.sensor.s0.valid = false → t.out.c1.cur = false) ∧
    (s.build.ch1Source = .sensor1 → s.sensor.s1.valid = false → t.out.c1.cur = false) ∧
    ((s.sensor.s0.valid && s.sensor.s1.valid) = false → t.out.c2.cur = t.out.c1.st2)

/-- R207, R211: a decision that differs from CUR and is then delivered for fewer than N1 steps in all never reaches
stage 1, also when it flips back; the N1-th step commits it. The spec marks R211 as its own inference. -/
def Obligations.DebounceNeedsN1Steps : Prop :=
  ∀ (n1 n2 k : Nat) (o : OutChan), 1 ≤ n1 → n1 ≤ n2 → n2 ≤ 256 →
    (k < n1 → (debounceFor n1 n2 (!o.cur) k o).st1 = o.st1) ∧
    (1 ≤ k → k < n1 → ((debounceFor n1 n2 (!o.cur) k o).debounce n1 n2 o.cur).st1 = o.st1) ∧
    (n1 ≤ k → (debounceFor n1 n2 (!o.cur) k o).st1 = !o.cur) ∧
    (n2 ≤ k → (debounceFor n1 n2 (!o.cur) k o).st2 = !o.cur)

/-- R213: OutputStep is a function of SP, TEMP, VALID, CUR, CNT, ST1 and ST2 for fixed parameters, and reads no bus.
The spec marks R213 as its own inference. -/
def Obligations.OutputStepIsDeterministic : Prop :=
  ∀ s s' t t' : State, SameOutputInputs s s' → exec .outputUpdate s = .next t → exec .outputUpdate s' = .next t' →
    t.out = t'.out ∧ t.wire = s.wire ∧ t'.wire = s'.wire

/-! ### Timing -/

/-- R269, R270: with the durations of R111, the bus time of the primitives and of the commands whose time is fixed.
The spec marks both tables as its own inference. -/
def Obligations.CommandBusTimes : Prop :=
  ∀ s t : State,
    (exec .owReset s = .next t → BusTimeOf s t 960) ∧
    (∀ b, exec (.owWriteBit b) s = .next t → BusTimeOf s t 70) ∧
    (exec .owReadBit s = .next t → BusTimeOf s t 70) ∧
    (∀ v, exec (.owWriteByte v) s = .next t → BusTimeOf s t 560) ∧
    (exec .owReadByte s = .next t → BusTimeOf s t 560) ∧
    (∀ i, exec (.select i) s = .next t → t.err = .ok → BusTimeOf s t 6000) ∧
    (exec .startConversions s = .next t → t.err = .ok → BusTimeOf s t (if s.dirCount = 0 then 960 else 2080)) ∧
    (∀ first, exec (searchCommand first) s = .next t → t.err = .ok → BusTimeOf s t 14960) ∧
    (∀ first, exec (searchCommand first) s = .next t → t.err = .searchExhausted → BusTimeOf s t 0) ∧
    (∀ v, exec (.crcUpdate v) s = .next t → BusTimeOf s t 0) ∧
    (∀ i ∈ [.nop, .crcClear, .updateMinmax, .advanceClock, .hourRolled, .outputUpdate],
      exec i s = .next t → BusTimeOf s t 0)
end

