-- ==== Sys2Proof/Laws/Bits.lean ====
section
/-!
SUPPORT. Bytes and their bits, address bits, and the CRC fold (20_memory.md R74, R75; 40_bus_primitives.md R120, R121).
-/

namespace Sys2Proof.Machine

@[simp] theorem byteBits_length (v : Byte) : (byteBits v).length = 8 := rfl

theorem byteBits_eq_range (v : Byte) : byteBits v = (List.range 8).map (fun i => v.getLsbD i) := rfl

theorem byteOfBits_byteBits (v : Byte) : byteOfBits (byteBits v) = v := by
  revert v; decide

/-- Eight bits make the byte whose bits they are (R116). -/
theorem byteBits_byteOfBits (l : List Bool) (h : l.length = 8) : byteBits (byteOfBits l) = l := by
  match l, h with
  | [a, b, c, d, e, f, g, i], _ => revert a b c d e f g i; decide

/-- A bit of a byte with one bit set. -/
theorem getLsbD_setByteBit (v : Byte) (j k : Nat) (d : Bool) (hj : j < 8) (hk : k < 8) :
    (setByteBit v j d).getLsbD k = if k = j then d else v.getLsbD k := by
  have key : ∀ (j k : Fin 8) (d : Bool) (v : Byte),
      (setByteBit v j.val d).getLsbD k.val = if k.val = j.val then d else v.getLsbD k.val := by
    intro ⟨j, hj⟩ ⟨k, hk⟩ d v
    cases d <;> by_cases h : k = j <;> simp [setByteBit, h] <;> omega
  exact key ⟨j, hj⟩ ⟨k, hk⟩ d v

/-- Reading in range takes the element. -/
theorem vector_getD {α : Type} {n : Nat} (v : Vector α n) (i : Nat) (d : α) (h : i < n) : v.getD i d = v[i] := by
  simp [Vector.getD, Array.getD, h]

/-- A bit position of an address with one bit position set (R75). -/
theorem romBit_setRomBit (r : Address) (p q : Nat) (d : Bool) (hp : 1 ≤ p) (hp' : p ≤ 64) (hq : 1 ≤ q) (hq' : q ≤ 64) :
    romBit (setRomBit r p d) q = if q = p then d else romBit r q := by
  have hi : (q - 1) / 8 < 8 := by omega
  have hj : (p - 1) / 8 < 8 := by omega
  rw [romBit, romBit, setRomBit, vector_getD _ _ _ hi, vector_getD _ _ _ hi, vector_getD _ _ _ hj,
    Vector.getElem_setIfInBounds]
  by_cases h : (p - 1) / 8 = (q - 1) / 8
  · simp only [h, ite_true]
    rw [getLsbD_setByteBit _ _ _ _ (by omega) (by omega)]
    by_cases h' : q = p
    · simp [h']
    · rw [if_neg (by omega), if_neg h']
  · rw [if_neg h, if_neg (by omega)]

/-- The address of all zeros has every bit position 0. -/
@[simp] theorem romBit_zero (p : Nat) : romBit (Vector.replicate 8 0) p = false := by
  by_cases h : (p - 1) / 8 < 8 <;> simp [romBit, Vector.getD, h]

/-- Two addresses with the same 64 bit positions are equal. -/
theorem address_ext {a b : Address} (h : ∀ p, 1 ≤ p → p ≤ 64 → romBit a p = romBit b p) : a = b := by
  ext i hi j hj
  have := h (8 * i + j + 1) (by omega) (by omega)
  simpa [romBit, Vector.getD, show (8 * i + j) / 8 = i by omega, show (8 * i + j) % 8 = j by omega, hi,
    BitVec.getLsbD_eq_getElem hj] using this

/-! ### The CRC fold -/

theorem crcFold_append (form : CrcForm) (acc : Byte) (a b : List Byte) :
    crcFold form acc (a ++ b) = crcFold form (crcFold form acc a) b := by
  simp [crcFold]

@[simp] theorem crcFold_nil (form : CrcForm) (acc : Byte) : crcFold form acc [] = acc := rfl

@[simp] theorem crcFold_cons (form : CrcForm) (acc v : Byte) (vs : List Byte) :
    crcFold form acc (v :: vs) = crcFold form (crcStep form acc v) vs := rfl

/-- One bit of the fold is linear over exclusive or. -/
theorem crcBit_xor (form : CrcForm) (a c : Byte) (b d : Bool) :
    crcBit form (a ^^^ c) (b ^^ d) = crcBit form a b ^^^ crcBit form c d := by
  cases form <;> simp only [crcBit, BitVec.getLsbD_xor, BitVec.shiftLeft_xor_distrib, BitVec.ushiftRight_xor_distrib]
  · cases a.getLsbD 7 <;> cases c.getLsbD 7 <;> cases b <;> cases d <;> simp <;> ac_nf <;> simp
  · cases a.getLsbD 0 <;> cases c.getLsbD 0 <;> cases b <;> cases d <;> simp <;> ac_nf <;> simp

/-- `CrcStep` is linear over exclusive or. -/
theorem crcStep_xor (form : CrcForm) (a c b d : Byte) :
    crcStep form (a ^^^ c) (b ^^^ d) = crcStep form a b ^^^ crcStep form c d := by
  simp only [crcStep, byteBits, List.foldl, BitVec.getLsbD_xor, crcBit_xor]

/-- `CrcStep` splits into a part of the accumulator and a part of the byte. -/
theorem crcStep_split (form : CrcForm) (a b : Byte) : crcStep form a b = crcStep form a 0 ^^^ crcStep form 0 b := by
  simpa using crcStep_xor form a 0 0 b

end Sys2Proof.Machine
end

