-- ==== Sys2Proof/Laws/Flags.lean ====
section
/-!
SUPPORT. The small values that commands derive, as numbers: saturating counters, flags as words, minima and maxima, and
the bit reverse (00_scope.md R9; 20_memory.md R62; 40_bus_primitives.md R120).
-/

namespace Sys2Proof.Machine

theorem satInc_toNat (c : Byte) : (satInc c).toNat = min (c.toNat + 1) 255 := by
  revert c; decide

@[simp] theorem zextBool_toNat (b : Bool) : (zextBool b).toNat = b.toNat := by cases b <;> rfl

theorem validBits_toNat (s : State) :
    (validBits s).toNat = s.sensor.s0.valid.toNat + 2 * s.sensor.s1.valid.toNat := by
  unfold validBits
  cases s.sensor.s0.valid <;> cases s.sensor.s1.valid <;> rfl

theorem sMin_toInt (a b : Word) : (sMin a b).toInt = min a.toInt b.toInt := by
  unfold sMin; split <;> omega

theorem sMax_toInt (a b : Word) : (sMax a b).toInt = max a.toInt b.toInt := by
  unfold sMax; split <;> omega

/-- The bit reverse, bit by bit. -/
theorem getLsbD_bitrev8 (v : Byte) (k : Nat) (h : k < 8) : (bitrev8 v).getLsbD k = v.getLsbD (7 - k) := by
  have key : ∀ (v : Byte) (k : Fin 8), (bitrev8 v).getLsbD k.val = v.getLsbD (7 - k.val) := by decide
  exact key v ⟨k, h⟩

/-- The bit reverse is linear over exclusive or. -/
theorem bitrev8_xor (a b : Byte) : bitrev8 (a ^^^ b) = bitrev8 a ^^^ bitrev8 b := by
  apply BitVec.eq_of_getLsbD_eq
  intro k hk
  rw [BitVec.getLsbD_xor, getLsbD_bitrev8 _ _ hk, getLsbD_bitrev8 _ _ hk, getLsbD_bitrev8 _ _ hk, BitVec.getLsbD_xor]

theorem bitrev8_bitrev8 (a : Byte) : bitrev8 (bitrev8 a) = a := by
  apply BitVec.eq_of_getLsbD_eq
  intro k hk
  rw [getLsbD_bitrev8 _ _ hk, getLsbD_bitrev8 _ _ (by omega), show 7 - (7 - k) = k by omega]

end Sys2Proof.Machine
end

