-- ==== Sys2Proof/Laws/State.lean ====
section
/-!
SUPPORT. What each shared update of the state does to each field: one lemma per field per update.
-/

namespace Sys2Proof.Machine

@[simp] theorem finish_wire (s : State) (e : Err) (r : Word) : (s.finish e r).wire = s.wire := rfl
@[simp] theorem finish_crc (s : State) (e : Err) (r : Word) : (s.finish e r).crc = s.crc := rfl
@[simp] theorem finish_rom (s : State) (e : Err) (r : Word) : (s.finish e r).rom = s.rom := rfl
@[simp] theorem finish_ld (s : State) (e : Err) (r : Word) : (s.finish e r).ld = s.ld := rfl
@[simp] theorem finish_ldf (s : State) (e : Err) (r : Word) : (s.finish e r).ldf = s.ldf := rfl
@[simp] theorem finish_found (s : State) (e : Err) (r : Word) : (s.finish e r).found = s.found := rfl
@[simp] theorem finish_dirCount (s : State) (e : Err) (r : Word) : (s.finish e r).dirCount = s.dirCount := rfl
@[simp] theorem finish_dir (s : State) (e : Err) (r : Word) : (s.finish e r).dir = s.dir := rfl
@[simp] theorem finish_scratch (s : State) (e : Err) (r : Word) : (s.finish e r).scratch = s.scratch := rfl
@[simp] theorem finish_sensor (s : State) (e : Err) (r : Word) : (s.finish e r).sensor = s.sensor := rfl
@[simp] theorem finish_histIdx (s : State) (e : Err) (r : Word) : (s.finish e r).histIdx = s.histIdx := rfl
@[simp] theorem finish_hoursSeen (s : State) (e : Err) (r : Word) : (s.finish e r).hoursSeen = s.hoursSeen := rfl
@[simp] theorem finish_sec (s : State) (e : Err) (r : Word) : (s.finish e r).sec = s.sec := rfl
@[simp] theorem finish_minute (s : State) (e : Err) (r : Word) : (s.finish e r).minute = s.minute := rfl
@[simp] theorem finish_hour (s : State) (e : Err) (r : Word) : (s.finish e r).hour = s.hour := rfl
@[simp] theorem finish_leap (s : State) (e : Err) (r : Word) : (s.finish e r).leap = s.leap := rfl
@[simp] theorem finish_sp (s : State) (e : Err) (r : Word) : (s.finish e r).sp = s.sp := rfl
@[simp] theorem finish_spLoaded (s : State) (e : Err) (r : Word) : (s.finish e r).spLoaded = s.spLoaded := rfl
@[simp] theorem finish_out (s : State) (e : Err) (r : Word) : (s.finish e r).out = s.out := rfl
@[simp] theorem finish_auto (s : State) (e : Err) (r : Word) : (s.finish e r).auto = s.auto := rfl
@[simp] theorem finish_ticks (s : State) (e : Err) (r : Word) : (s.finish e r).ticks = s.ticks := rfl
@[simp] theorem finish_err (s : State) (e : Err) (r : Word) : (s.finish e r).err = e := rfl
@[simp] theorem finish_presence (s : State) (e : Err) (r : Word) : (s.finish e r).presence = s.presence := rfl
@[simp] theorem finish_hourRolled (s : State) (e : Err) (r : Word) : (s.finish e r).hourRolled = s.hourRolled := rfl
@[simp] theorem finish_result (s : State) (e : Err) (r : Word) : (s.finish e r).result = r := rfl
@[simp] theorem finish_lastCmd (s : State) (e : Err) (r : Word) : (s.finish e r).lastCmd = s.lastCmd := rfl
@[simp] theorem finish_build (s : State) (e : Err) (r : Word) : (s.finish e r).build = s.build := rfl
@[simp] theorem finish_sched (s : State) (e : Err) (r : Word) : (s.finish e r).sched = s.sched := rfl
@[simp] theorem finish_readData (s : State) (e : Err) (r : Word) : (s.finish e r).readData = s.readData := rfl
@[simp] theorem finish_powerOns (s : State) (e : Err) (r : Word) : (s.finish e r).powerOns = s.powerOns := rfl

@[simp] theorem busReset_wire (s : State) : (s.busReset.2).wire = s.wire.reset.2 := rfl
@[simp] theorem busReset_crc (s : State) : (s.busReset.2).crc = s.crc := rfl
@[simp] theorem busReset_rom (s : State) : (s.busReset.2).rom = s.rom := rfl
@[simp] theorem busReset_ld (s : State) : (s.busReset.2).ld = s.ld := rfl
@[simp] theorem busReset_ldf (s : State) : (s.busReset.2).ldf = s.ldf := rfl
@[simp] theorem busReset_found (s : State) : (s.busReset.2).found = s.found := rfl
@[simp] theorem busReset_dirCount (s : State) : (s.busReset.2).dirCount = s.dirCount := rfl
@[simp] theorem busReset_dir (s : State) : (s.busReset.2).dir = s.dir := rfl
@[simp] theorem busReset_scratch (s : State) : (s.busReset.2).scratch = s.scratch := rfl
@[simp] theorem busReset_sensor (s : State) : (s.busReset.2).sensor = s.sensor := rfl
@[simp] theorem busReset_histIdx (s : State) : (s.busReset.2).histIdx = s.histIdx := rfl
@[simp] theorem busReset_hoursSeen (s : State) : (s.busReset.2).hoursSeen = s.hoursSeen := rfl
@[simp] theorem busReset_sec (s : State) : (s.busReset.2).sec = s.sec := rfl
@[simp] theorem busReset_minute (s : State) : (s.busReset.2).minute = s.minute := rfl
@[simp] theorem busReset_hour (s : State) : (s.busReset.2).hour = s.hour := rfl
@[simp] theorem busReset_leap (s : State) : (s.busReset.2).leap = s.leap := rfl
@[simp] theorem busReset_sp (s : State) : (s.busReset.2).sp = s.sp := rfl
@[simp] theorem busReset_spLoaded (s : State) : (s.busReset.2).spLoaded = s.spLoaded := rfl
@[simp] theorem busReset_out (s : State) : (s.busReset.2).out = s.out := rfl
@[simp] theorem busReset_auto (s : State) : (s.busReset.2).auto = s.auto := rfl
@[simp] theorem busReset_ticks (s : State) : (s.busReset.2).ticks = s.ticks := rfl
@[simp] theorem busReset_err (s : State) : (s.busReset.2).err = s.err := rfl
@[simp] theorem busReset_presence (s : State) : (s.busReset.2).presence = s.wire.reset.1 := rfl
@[simp] theorem busReset_hourRolled (s : State) : (s.busReset.2).hourRolled = s.hourRolled := rfl
@[simp] theorem busReset_result (s : State) : (s.busReset.2).result = s.result := rfl
@[simp] theorem busReset_lastCmd (s : State) : (s.busReset.2).lastCmd = s.lastCmd := rfl
@[simp] theorem busReset_build (s : State) : (s.busReset.2).build = s.build := rfl
@[simp] theorem busReset_sched (s : State) : (s.busReset.2).sched = s.sched := rfl
@[simp] theorem busReset_readData (s : State) : (s.busReset.2).readData = s.readData := rfl
@[simp] theorem busReset_powerOns (s : State) : (s.busReset.2).powerOns = s.powerOns := rfl

@[simp] theorem busWriteByte_wire (s : State) (v : Byte) : (s.busWriteByte v).wire = s.wire.writeByte v := rfl
@[simp] theorem busWriteByte_crc (s : State) (v : Byte) : (s.busWriteByte v).crc = s.crc := rfl
@[simp] theorem busWriteByte_rom (s : State) (v : Byte) : (s.busWriteByte v).rom = s.rom := rfl
@[simp] theorem busWriteByte_ld (s : State) (v : Byte) : (s.busWriteByte v).ld = s.ld := rfl
@[simp] theorem busWriteByte_ldf (s : State) (v : Byte) : (s.busWriteByte v).ldf = s.ldf := rfl
@[simp] theorem busWriteByte_found (s : State) (v : Byte) : (s.busWriteByte v).found = s.found := rfl
@[simp] theorem busWriteByte_dirCount (s : State) (v : Byte) : (s.busWriteByte v).dirCount = s.dirCount := rfl
@[simp] theorem busWriteByte_dir (s : State) (v : Byte) : (s.busWriteByte v).dir = s.dir := rfl
@[simp] theorem busWriteByte_scratch (s : State) (v : Byte) : (s.busWriteByte v).scratch = s.scratch := rfl
@[simp] theorem busWriteByte_sensor (s : State) (v : Byte) : (s.busWriteByte v).sensor = s.sensor := rfl
@[simp] theorem busWriteByte_histIdx (s : State) (v : Byte) : (s.busWriteByte v).histIdx = s.histIdx := rfl
@[simp] theorem busWriteByte_hoursSeen (s : State) (v : Byte) : (s.busWriteByte v).hoursSeen = s.hoursSeen := rfl
@[simp] theorem busWriteByte_sec (s : State) (v : Byte) : (s.busWriteByte v).sec = s.sec := rfl
@[simp] theorem busWriteByte_minute (s : State) (v : Byte) : (s.busWriteByte v).minute = s.minute := rfl
@[simp] theorem busWriteByte_hour (s : State) (v : Byte) : (s.busWriteByte v).hour = s.hour := rfl
@[simp] theorem busWriteByte_leap (s : State) (v : Byte) : (s.busWriteByte v).leap = s.leap := rfl
@[simp] theorem busWriteByte_sp (s : State) (v : Byte) : (s.busWriteByte v).sp = s.sp := rfl
@[simp] theorem busWriteByte_spLoaded (s : State) (v : Byte) : (s.busWriteByte v).spLoaded = s.spLoaded := rfl
@[simp] theorem busWriteByte_out (s : State) (v : Byte) : (s.busWriteByte v).out = s.out := rfl
@[simp] theorem busWriteByte_auto (s : State) (v : Byte) : (s.busWriteByte v).auto = s.auto := rfl
@[simp] theorem busWriteByte_ticks (s : State) (v : Byte) : (s.busWriteByte v).ticks = s.ticks := rfl
@[simp] theorem busWriteByte_err (s : State) (v : Byte) : (s.busWriteByte v).err = s.err := rfl
@[simp] theorem busWriteByte_presence (s : State) (v : Byte) : (s.busWriteByte v).presence = s.presence := rfl
@[simp] theorem busWriteByte_hourRolled (s : State) (v : Byte) : (s.busWriteByte v).hourRolled = s.hourRolled := rfl
@[simp] theorem busWriteByte_result (s : State) (v : Byte) : (s.busWriteByte v).result = s.result := rfl
@[simp] theorem busWriteByte_lastCmd (s : State) (v : Byte) : (s.busWriteByte v).lastCmd = s.lastCmd := rfl
@[simp] theorem busWriteByte_build (s : State) (v : Byte) : (s.busWriteByte v).build = s.build := rfl
@[simp] theorem busWriteByte_sched (s : State) (v : Byte) : (s.busWriteByte v).sched = s.sched := rfl
@[simp] theorem busWriteByte_readData (s : State) (v : Byte) : (s.busWriteByte v).readData = s.readData := rfl
@[simp] theorem busWriteByte_powerOns (s : State) (v : Byte) : (s.busWriteByte v).powerOns = s.powerOns := rfl

@[simp] theorem abandonSearch_wire (s : State) : (s.abandonSearch).wire = s.wire := rfl
@[simp] theorem abandonSearch_crc (s : State) : (s.abandonSearch).crc = s.crc := rfl
@[simp] theorem abandonSearch_rom (s : State) : (s.abandonSearch).rom = s.rom := rfl
@[simp] theorem abandonSearch_ld (s : State) : (s.abandonSearch).ld = 0 := rfl
@[simp] theorem abandonSearch_ldf (s : State) : (s.abandonSearch).ldf = false := rfl
@[simp] theorem abandonSearch_found (s : State) : (s.abandonSearch).found = false := rfl
@[simp] theorem abandonSearch_dirCount (s : State) : (s.abandonSearch).dirCount = s.dirCount := rfl
@[simp] theorem abandonSearch_dir (s : State) : (s.abandonSearch).dir = s.dir := rfl
@[simp] theorem abandonSearch_scratch (s : State) : (s.abandonSearch).scratch = s.scratch := rfl
@[simp] theorem abandonSearch_sensor (s : State) : (s.abandonSearch).sensor = s.sensor := rfl
@[simp] theorem abandonSearch_histIdx (s : State) : (s.abandonSearch).histIdx = s.histIdx := rfl
@[simp] theorem abandonSearch_hoursSeen (s : State) : (s.abandonSearch).hoursSeen = s.hoursSeen := rfl
@[simp] theorem abandonSearch_sec (s : State) : (s.abandonSearch).sec = s.sec := rfl
@[simp] theorem abandonSearch_minute (s : State) : (s.abandonSearch).minute = s.minute := rfl
@[simp] theorem abandonSearch_hour (s : State) : (s.abandonSearch).hour = s.hour := rfl
@[simp] theorem abandonSearch_leap (s : State) : (s.abandonSearch).leap = s.leap := rfl
@[simp] theorem abandonSearch_sp (s : State) : (s.abandonSearch).sp = s.sp := rfl
@[simp] theorem abandonSearch_spLoaded (s : State) : (s.abandonSearch).spLoaded = s.spLoaded := rfl
@[simp] theorem abandonSearch_out (s : State) : (s.abandonSearch).out = s.out := rfl
@[simp] theorem abandonSearch_auto (s : State) : (s.abandonSearch).auto = s.auto := rfl
@[simp] theorem abandonSearch_ticks (s : State) : (s.abandonSearch).ticks = s.ticks := rfl
@[simp] theorem abandonSearch_err (s : State) : (s.abandonSearch).err = s.err := rfl
@[simp] theorem abandonSearch_presence (s : State) : (s.abandonSearch).presence = s.presence := rfl
@[simp] theorem abandonSearch_hourRolled (s : State) : (s.abandonSearch).hourRolled = s.hourRolled := rfl
@[simp] theorem abandonSearch_result (s : State) : (s.abandonSearch).result = s.result := rfl
@[simp] theorem abandonSearch_lastCmd (s : State) : (s.abandonSearch).lastCmd = s.lastCmd := rfl
@[simp] theorem abandonSearch_build (s : State) : (s.abandonSearch).build = s.build := rfl
@[simp] theorem abandonSearch_sched (s : State) : (s.abandonSearch).sched = s.sched := rfl
@[simp] theorem abandonSearch_readData (s : State) : (s.abandonSearch).readData = s.readData := rfl
@[simp] theorem abandonSearch_powerOns (s : State) : (s.abandonSearch).powerOns = s.powerOns := rfl

@[simp] theorem rejectChannel_wire (s : State) (ch : Sensor) (e : Err) : (s.rejectChannel ch e).wire = s.wire := rfl
@[simp] theorem rejectChannel_crc (s : State) (ch : Sensor) (e : Err) : (s.rejectChannel ch e).crc = s.crc := rfl
@[simp] theorem rejectChannel_rom (s : State) (ch : Sensor) (e : Err) : (s.rejectChannel ch e).rom = s.rom := rfl
@[simp] theorem rejectChannel_ld (s : State) (ch : Sensor) (e : Err) : (s.rejectChannel ch e).ld = s.ld := rfl
@[simp] theorem rejectChannel_ldf (s : State) (ch : Sensor) (e : Err) : (s.rejectChannel ch e).ldf = s.ldf := rfl
@[simp] theorem rejectChannel_found (s : State) (ch : Sensor) (e : Err) : (s.rejectChannel ch e).found = s.found := rfl
@[simp] theorem rejectChannel_dirCount (s : State) (ch : Sensor) (e : Err) : (s.rejectChannel ch e).dirCount = s.dirCount := rfl
@[simp] theorem rejectChannel_dir (s : State) (ch : Sensor) (e : Err) : (s.rejectChannel ch e).dir = s.dir := rfl
@[simp] theorem rejectChannel_scratch (s : State) (ch : Sensor) (e : Err) : (s.rejectChannel ch e).scratch = s.scratch := rfl
@[simp] theorem rejectChannel_sensor (s : State) (ch : Sensor) (e : Err) : (s.rejectChannel ch e).sensor = s.sensor.modify ch (SensorChan.reject e) := rfl
@[simp] theorem rejectChannel_histIdx (s : State) (ch : Sensor) (e : Err) : (s.rejectChannel ch e).histIdx = s.histIdx := rfl
@[simp] theorem rejectChannel_hoursSeen (s : State) (ch : Sensor) (e : Err) : (s.rejectChannel ch e).hoursSeen = s.hoursSeen := rfl
@[simp] theorem rejectChannel_sec (s : State) (ch : Sensor) (e : Err) : (s.rejectChannel ch e).sec = s.sec := rfl
@[simp] theorem rejectChannel_minute (s : State) (ch : Sensor) (e : Err) : (s.rejectChannel ch e).minute = s.minute := rfl
@[simp] theorem rejectChannel_hour (s : State) (ch : Sensor) (e : Err) : (s.rejectChannel ch e).hour = s.hour := rfl
@[simp] theorem rejectChannel_leap (s : State) (ch : Sensor) (e : Err) : (s.rejectChannel ch e).leap = s.leap := rfl
@[simp] theorem rejectChannel_sp (s : State) (ch : Sensor) (e : Err) : (s.rejectChannel ch e).sp = s.sp := rfl
@[simp] theorem rejectChannel_spLoaded (s : State) (ch : Sensor) (e : Err) : (s.rejectChannel ch e).spLoaded = s.spLoaded := rfl
@[simp] theorem rejectChannel_out (s : State) (ch : Sensor) (e : Err) : (s.rejectChannel ch e).out = s.out := rfl
@[simp] theorem rejectChannel_auto (s : State) (ch : Sensor) (e : Err) : (s.rejectChannel ch e).auto = s.auto := rfl
@[simp] theorem rejectChannel_ticks (s : State) (ch : Sensor) (e : Err) : (s.rejectChannel ch e).ticks = s.ticks := rfl
@[simp] theorem rejectChannel_err (s : State) (ch : Sensor) (e : Err) : (s.rejectChannel ch e).err = s.err := rfl
@[simp] theorem rejectChannel_presence (s : State) (ch : Sensor) (e : Err) : (s.rejectChannel ch e).presence = s.presence := rfl
@[simp] theorem rejectChannel_hourRolled (s : State) (ch : Sensor) (e : Err) : (s.rejectChannel ch e).hourRolled = s.hourRolled := rfl
@[simp] theorem rejectChannel_result (s : State) (ch : Sensor) (e : Err) : (s.rejectChannel ch e).result = s.result := rfl
@[simp] theorem rejectChannel_lastCmd (s : State) (ch : Sensor) (e : Err) : (s.rejectChannel ch e).lastCmd = s.lastCmd := rfl
@[simp] theorem rejectChannel_build (s : State) (ch : Sensor) (e : Err) : (s.rejectChannel ch e).build = s.build := rfl
@[simp] theorem rejectChannel_sched (s : State) (ch : Sensor) (e : Err) : (s.rejectChannel ch e).sched = s.sched := rfl
@[simp] theorem rejectChannel_readData (s : State) (ch : Sensor) (e : Err) : (s.rejectChannel ch e).readData = s.readData := rfl
@[simp] theorem rejectChannel_powerOns (s : State) (ch : Sensor) (e : Err) : (s.rejectChannel ch e).powerOns = s.powerOns := rfl

@[simp] theorem acceptChannel_wire (s : State) (ch : Sensor) : (s.acceptChannel ch).wire = s.wire := rfl
@[simp] theorem acceptChannel_crc (s : State) (ch : Sensor) : (s.acceptChannel ch).crc = s.crc := rfl
@[simp] theorem acceptChannel_rom (s : State) (ch : Sensor) : (s.acceptChannel ch).rom = s.rom := rfl
@[simp] theorem acceptChannel_ld (s : State) (ch : Sensor) : (s.acceptChannel ch).ld = s.ld := rfl
@[simp] theorem acceptChannel_ldf (s : State) (ch : Sensor) : (s.acceptChannel ch).ldf = s.ldf := rfl
@[simp] theorem acceptChannel_found (s : State) (ch : Sensor) : (s.acceptChannel ch).found = s.found := rfl
@[simp] theorem acceptChannel_dirCount (s : State) (ch : Sensor) : (s.acceptChannel ch).dirCount = s.dirCount := rfl
@[simp] theorem acceptChannel_dir (s : State) (ch : Sensor) : (s.acceptChannel ch).dir = s.dir := rfl
@[simp] theorem acceptChannel_scratch (s : State) (ch : Sensor) : (s.acceptChannel ch).scratch = s.scratch := rfl
@[simp] theorem acceptChannel_sensor (s : State) (ch : Sensor) : (s.acceptChannel ch).sensor = s.sensor.modify ch (SensorChan.accept (convert s.build.tempRounding (rawTemp s.scratch))) := rfl
@[simp] theorem acceptChannel_histIdx (s : State) (ch : Sensor) : (s.acceptChannel ch).histIdx = s.histIdx := rfl
@[simp] theorem acceptChannel_hoursSeen (s : State) (ch : Sensor) : (s.acceptChannel ch).hoursSeen = s.hoursSeen := rfl
@[simp] theorem acceptChannel_sec (s : State) (ch : Sensor) : (s.acceptChannel ch).sec = s.sec := rfl
@[simp] theorem acceptChannel_minute (s : State) (ch : Sensor) : (s.acceptChannel ch).minute = s.minute := rfl
@[simp] theorem acceptChannel_hour (s : State) (ch : Sensor) : (s.acceptChannel ch).hour = s.hour := rfl
@[simp] theorem acceptChannel_leap (s : State) (ch : Sensor) : (s.acceptChannel ch).leap = s.leap := rfl
@[simp] theorem acceptChannel_sp (s : State) (ch : Sensor) : (s.acceptChannel ch).sp = s.sp := rfl
@[simp] theorem acceptChannel_spLoaded (s : State) (ch : Sensor) : (s.acceptChannel ch).spLoaded = s.spLoaded := rfl
@[simp] theorem acceptChannel_out (s : State) (ch : Sensor) : (s.acceptChannel ch).out = s.out := rfl
@[simp] theorem acceptChannel_auto (s : State) (ch : Sensor) : (s.acceptChannel ch).auto = s.auto := rfl
@[simp] theorem acceptChannel_ticks (s : State) (ch : Sensor) : (s.acceptChannel ch).ticks = s.ticks := rfl
@[simp] theorem acceptChannel_err (s : State) (ch : Sensor) : (s.acceptChannel ch).err = s.err := rfl
@[simp] theorem acceptChannel_presence (s : State) (ch : Sensor) : (s.acceptChannel ch).presence = s.presence := rfl
@[simp] theorem acceptChannel_hourRolled (s : State) (ch : Sensor) : (s.acceptChannel ch).hourRolled = s.hourRolled := rfl
@[simp] theorem acceptChannel_result (s : State) (ch : Sensor) : (s.acceptChannel ch).result = s.result := rfl
@[simp] theorem acceptChannel_lastCmd (s : State) (ch : Sensor) : (s.acceptChannel ch).lastCmd = s.lastCmd := rfl
@[simp] theorem acceptChannel_build (s : State) (ch : Sensor) : (s.acceptChannel ch).build = s.build := rfl
@[simp] theorem acceptChannel_sched (s : State) (ch : Sensor) : (s.acceptChannel ch).sched = s.sched := rfl
@[simp] theorem acceptChannel_readData (s : State) (ch : Sensor) : (s.acceptChannel ch).readData = s.readData := rfl
@[simp] theorem acceptChannel_powerOns (s : State) (ch : Sensor) : (s.acceptChannel ch).powerOns = s.powerOns := rfl

@[simp] theorem minMax_wire (s : State) : (s.minMax).wire = s.wire := rfl
@[simp] theorem minMax_crc (s : State) : (s.minMax).crc = s.crc := rfl
@[simp] theorem minMax_rom (s : State) : (s.minMax).rom = s.rom := rfl
@[simp] theorem minMax_ld (s : State) : (s.minMax).ld = s.ld := rfl
@[simp] theorem minMax_ldf (s : State) : (s.minMax).ldf = s.ldf := rfl
@[simp] theorem minMax_found (s : State) : (s.minMax).found = s.found := rfl
@[simp] theorem minMax_dirCount (s : State) : (s.minMax).dirCount = s.dirCount := rfl
@[simp] theorem minMax_dir (s : State) : (s.minMax).dir = s.dir := rfl
@[simp] theorem minMax_scratch (s : State) : (s.minMax).scratch = s.scratch := rfl
@[simp] theorem minMax_sensor (s : State) : (s.minMax).sensor = s.sensor.map (SensorChan.widen s.histIdx) := rfl
@[simp] theorem minMax_histIdx (s : State) : (s.minMax).histIdx = s.histIdx := rfl
@[simp] theorem minMax_hoursSeen (s : State) : (s.minMax).hoursSeen = s.hoursSeen := rfl
@[simp] theorem minMax_sec (s : State) : (s.minMax).sec = s.sec := rfl
@[simp] theorem minMax_minute (s : State) : (s.minMax).minute = s.minute := rfl
@[simp] theorem minMax_hour (s : State) : (s.minMax).hour = s.hour := rfl
@[simp] theorem minMax_leap (s : State) : (s.minMax).leap = s.leap := rfl
@[simp] theorem minMax_sp (s : State) : (s.minMax).sp = s.sp := rfl
@[simp] theorem minMax_spLoaded (s : State) : (s.minMax).spLoaded = s.spLoaded := rfl
@[simp] theorem minMax_out (s : State) : (s.minMax).out = s.out := rfl
@[simp] theorem minMax_auto (s : State) : (s.minMax).auto = s.auto := rfl
@[simp] theorem minMax_ticks (s : State) : (s.minMax).ticks = s.ticks := rfl
@[simp] theorem minMax_err (s : State) : (s.minMax).err = s.err := rfl
@[simp] theorem minMax_presence (s : State) : (s.minMax).presence = s.presence := rfl
@[simp] theorem minMax_hourRolled (s : State) : (s.minMax).hourRolled = s.hourRolled := rfl
@[simp] theorem minMax_result (s : State) : (s.minMax).result = s.result := rfl
@[simp] theorem minMax_lastCmd (s : State) : (s.minMax).lastCmd = s.lastCmd := rfl
@[simp] theorem minMax_build (s : State) : (s.minMax).build = s.build := rfl
@[simp] theorem minMax_sched (s : State) : (s.minMax).sched = s.sched := rfl
@[simp] theorem minMax_readData (s : State) : (s.minMax).readData = s.readData := rfl
@[simp] theorem minMax_powerOns (s : State) : (s.minMax).powerOns = s.powerOns := rfl

@[simp] theorem hourRoll_wire (s : State) : (s.hourRoll).wire = s.wire := rfl
@[simp] theorem hourRoll_crc (s : State) : (s.hourRoll).crc = s.crc := rfl
@[simp] theorem hourRoll_rom (s : State) : (s.hourRoll).rom = s.rom := rfl
@[simp] theorem hourRoll_ld (s : State) : (s.hourRoll).ld = s.ld := rfl
@[simp] theorem hourRoll_ldf (s : State) : (s.hourRoll).ldf = s.ldf := rfl
@[simp] theorem hourRoll_found (s : State) : (s.hourRoll).found = s.found := rfl
@[simp] theorem hourRoll_dirCount (s : State) : (s.hourRoll).dirCount = s.dirCount := rfl
@[simp] theorem hourRoll_dir (s : State) : (s.hourRoll).dir = s.dir := rfl
@[simp] theorem hourRoll_scratch (s : State) : (s.hourRoll).scratch = s.scratch := rfl
@[simp] theorem hourRoll_sensor (s : State) : (s.hourRoll).sensor = s.sensor.map (SensorChan.emptySlot (s.histIdx + 1)) := rfl
@[simp] theorem hourRoll_histIdx (s : State) : (s.hourRoll).histIdx = s.histIdx + 1 := rfl
@[simp] theorem hourRoll_hoursSeen (s : State) : (s.hourRoll).hoursSeen = min (s.hoursSeen + 1) 23 := rfl
@[simp] theorem hourRoll_sec (s : State) : (s.hourRoll).sec = s.sec := rfl
@[simp] theorem hourRoll_minute (s : State) : (s.hourRoll).minute = s.minute := rfl
@[simp] theorem hourRoll_hour (s : State) : (s.hourRoll).hour = s.hour := rfl
@[simp] theorem hourRoll_leap (s : State) : (s.hourRoll).leap = s.leap := rfl
@[simp] theorem hourRoll_sp (s : State) : (s.hourRoll).sp = s.sp := rfl
@[simp] theorem hourRoll_spLoaded (s : State) : (s.hourRoll).spLoaded = s.spLoaded := rfl
@[simp] theorem hourRoll_out (s : State) : (s.hourRoll).out = s.out := rfl
@[simp] theorem hourRoll_auto (s : State) : (s.hourRoll).auto = s.auto := rfl
@[simp] theorem hourRoll_ticks (s : State) : (s.hourRoll).ticks = s.ticks := rfl
@[simp] theorem hourRoll_err (s : State) : (s.hourRoll).err = s.err := rfl
@[simp] theorem hourRoll_presence (s : State) : (s.hourRoll).presence = s.presence := rfl
@[simp] theorem hourRoll_hourRolled (s : State) : (s.hourRoll).hourRolled = s.hourRolled := rfl
@[simp] theorem hourRoll_result (s : State) : (s.hourRoll).result = s.result := rfl
@[simp] theorem hourRoll_lastCmd (s : State) : (s.hourRoll).lastCmd = s.lastCmd := rfl
@[simp] theorem hourRoll_build (s : State) : (s.hourRoll).build = s.build := rfl
@[simp] theorem hourRoll_sched (s : State) : (s.hourRoll).sched = s.sched := rfl
@[simp] theorem hourRoll_readData (s : State) : (s.hourRoll).readData = s.readData := rfl
@[simp] theorem hourRoll_powerOns (s : State) : (s.hourRoll).powerOns = s.powerOns := rfl

@[simp] theorem busReset_fst (s : State) : s.busReset.1 = s.wire.reset.1 := rfl

end Sys2Proof.Machine
end

