-- ==== Sys2Proof/Laws/Ops.lean ====
section
/-!
SUPPORT. What each bus operation does to the line, once each (40_bus_primitives.md R110-R118): the drive level after it,
the events it adds to the trace, what it answers, and how the environment goes on.
-/

namespace Sys2Proof.Machine

/-! ### The three primitives -/

@[simp] theorem reset_snd (w : Wire) :
    w.reset.2 = { drv := false, env := w.env.after (.reset (!w.env.presenceLevel w.trace)),
                  trace := .reset (!w.env.presenceLevel w.trace) :: w.trace } := rfl

@[simp] theorem reset_fst (w : Wire) : w.reset.1 = !w.env.presenceLevel w.trace := rfl

@[simp] theorem writeBit_eq (w : Wire) (b : Bool) :
    w.writeBit b = { drv := false, env := w.env.after (.write b), trace := .write b :: w.trace } := rfl

@[simp] theorem readBit_fst (w : Wire) : w.readBit.1 = w.env.readLevel w.trace := rfl

@[simp] theorem readBit_snd (w : Wire) :
    w.readBit.2 = { drv := false, env := w.env.after (.read (w.env.readLevel w.trace)),
                    trace := .read (w.env.readLevel w.trace) :: w.trace } := rfl

/-! ### Write slots -/

/-- A run of write slots. -/
theorem foldl_writeBit (bs : List Bool) (w : Wire) :
    bs.foldl Wire.writeBit w =
      { drv := if bs = [] then w.drv else false
        env := bs.foldl (fun e b => e.after (.write b)) w.env
        trace := (bs.map BusEvent.write).reverse ++ w.trace } := by
  induction bs generalizing w with
  | nil => rfl
  | cons b bs ih => simp [ih]

@[simp] theorem writeByte_drv (w : Wire) (v : Byte) : (w.writeByte v).drv = false := by
  simp [Wire.writeByte, byteBits]

theorem writeByte_trace (w : Wire) (v : Byte) :
    (w.writeByte v).trace = ((byteBits v).map BusEvent.write).reverse ++ w.trace := by
  simp [Wire.writeByte, foldl_writeBit]

theorem writeByte_env (w : Wire) (v : Byte) :
    (w.writeByte v).env = (byteBits v).foldl (fun e b => e.after (.write b)) w.env := by
  simp [Wire.writeByte, foldl_writeBit]

theorem writeBytes_trace (w : Wire) (vs : List Byte) :
    (w.writeBytes vs).trace = (vs.flatMap (fun v => (byteBits v).map BusEvent.write)).reverse ++ w.trace := by
  induction vs generalizing w with
  | nil => rfl
  | cons v vs ih =>
    show ((w.writeByte v).writeBytes vs).trace = _
    rw [ih, writeByte_trace]
    simp [List.flatMap_cons, List.append_assoc]

theorem writeBytes_drv (w : Wire) (vs : List Byte) (h : w.drv = false) : (w.writeBytes vs).drv = false := by
  induction vs generalizing w with
  | nil => exact h
  | cons v vs ih => exact ih _ (writeByte_drv w v)

/-! ### Read slots -/

theorem readBits_length (n : Nat) (w : Wire) : (w.readBits n).1.length = n := by
  induction n generalizing w with
  | zero => rfl
  | succ n ih => simp [Wire.readBits, ih]

theorem readBits_trace (n : Nat) (w : Wire) :
    (w.readBits n).2.trace = ((w.readBits n).1.map BusEvent.read).reverse ++ w.trace := by
  induction n generalizing w with
  | zero => rfl
  | succ n ih => simp [Wire.readBits, ih]

theorem readBits_drv (n : Nat) (w : Wire) (h : w.drv = false) : (w.readBits n).2.drv = false := by
  induction n generalizing w with
  | zero => exact h
  | succ n ih => exact ih _ rfl

@[simp] theorem readByte_drv (w : Wire) : w.readByte.2.drv = false := readBits_drv 7 w.readBit.2 rfl

theorem readByte_trace (w : Wire) :
    w.readByte.2.trace = ((byteBits w.readByte.1).map BusEvent.read).reverse ++ w.trace := by
  rw [Wire.readByte, byteBits_byteOfBits _ (readBits_length 8 w)]
  exact readBits_trace 8 w

theorem readBits_env (n : Nat) (w : Wire) :
    (w.readBits n).2.env = ((w.readBits n).1.map BusEvent.read).foldl BusEnv.after w.env := by
  induction n generalizing w with
  | zero => rfl
  | succ n ih => simp [Wire.readBits, ih]

/-- Each bit read is the level the environment gives after the earlier read slots (R114, R118). -/
theorem readBits_bit (n : Nat) (w : Wire) (k : Nat) (h : k < n) :
    (w.readBits n).1[k]? = some (
      ((((w.readBits n).1.take k).map BusEvent.read).foldl BusEnv.after w.env).readLevel
        ((((w.readBits n).1.take k).map BusEvent.read).reverse ++ w.trace)) := by
  induction n generalizing w k with
  | zero => omega
  | succ n ih =>
    cases k with
    | zero => simp [Wire.readBits]
    | succ k => simpa [Wire.readBits] using ih w.readBit.2 k (by omega)

/-- The bits of the byte read are the bits of its read slots (R116). -/
theorem byteBits_readByte (w : Wire) : byteBits w.readByte.1 = (w.readBits 8).1 := by
  rw [Wire.readByte, byteBits_byteOfBits _ (readBits_length 8 w)]

theorem readByte_env (w : Wire) :
    w.readByte.2.env = ((byteBits w.readByte.1).map BusEvent.read).foldl BusEnv.after w.env := by
  rw [Wire.readByte, byteBits_byteOfBits _ (readBits_length 8 w)]
  exact readBits_env 8 w

/-! ### Environments -/

/-- A stuck line stays stuck (R267). -/
@[simp] theorem held_after (ev : BusEvent) : BusEnv.held.after ev = .held := rfl

/-- A write slot uses up no answer of a script. -/
@[simp] theorem script_after_write (l : List Bool) (b : Bool) : (BusEnv.script l).after (.write b) = .script l := rfl

@[simp] theorem script_after_read (a : Bool) (l : List Bool) (b : Bool) :
    (BusEnv.script (a :: l)).after (.read b) = .script l := rfl

@[simp] theorem script_after_reset (a : Bool) (l : List Bool) (b : Bool) :
    (BusEnv.script (a :: l)).after (.reset b) = .script l := rfl

@[simp] theorem script_readLevel (a : Bool) (l : List Bool) (tr : List BusEvent) :
    (BusEnv.script (a :: l)).readLevel tr = a := rfl

@[simp] theorem script_presenceLevel (a : Bool) (l : List Bool) (tr : List BusEvent) :
    (BusEnv.script (a :: l)).presenceLevel tr = a := rfl

@[simp] theorem held_readLevel (tr : List BusEvent) : BusEnv.held.readLevel tr = false := rfl

@[simp] theorem held_presenceLevel (tr : List BusEvent) : BusEnv.held.presenceLevel tr = false := rfl

@[simp] theorem devices_readLevel (ds : List Device) (tr : List BusEvent) :
    (BusEnv.devices ds).readLevel tr = ds.all Device.releases := rfl

@[simp] theorem devices_presenceLevel (ds : List Device) (tr : List BusEvent) :
    (BusEnv.devices ds).presenceLevel tr = ds.isEmpty := rfl

@[simp] theorem devices_after (ds : List Device) (ev : BusEvent) :
    (BusEnv.devices ds).after ev = .devices (ds.map (Device.after ev)) := rfl

/-- A byte written to a stuck line leaves it stuck. -/
@[simp] theorem writeByte_env_held (w : Wire) (v : Byte) (h : w.env = .held) : (w.writeByte v).env = .held := by
  simp [writeByte_env, byteBits, h]

/-- A byte written uses up no answer of a script. -/
theorem writeByte_env_script (w : Wire) (v : Byte) (l : List Bool) (h : w.env = .script l) :
    (w.writeByte v).env = .script l := by
  simp [writeByte_env, byteBits, h]

theorem writeBytes_env_script (w : Wire) (vs : List Byte) (l : List Bool) (h : w.env = .script l) :
    (w.writeBytes vs).env = .script l := by
  induction vs generalizing w with
  | nil => exact h
  | cons v vs ih => exact ih _ (writeByte_env_script w v l h)

/-- Read slots take the next answers of a script, in order. -/
theorem readBits_script (n : Nat) (w : Wire) (bs l : List Bool) (hn : bs.length = n) (h : w.env = .script (bs ++ l)) :
    (w.readBits n).1 = bs ∧ (w.readBits n).2.env = .script l := by
  induction bs generalizing n w with
  | nil => subst hn; exact ⟨rfl, h⟩
  | cons b bs ih =>
    subst hn
    obtain ⟨h1, h2⟩ := ih bs.length w.readBit.2 rfl (by simp [h])
    refine ⟨?_, h2⟩
    simp only [List.length_cons, Wire.readBits, readBit_fst, h]
    rw [h1]
    rfl

/-- A byte read takes the next eight answers of a script. -/
theorem readByte_script (w : Wire) (v : Byte) (l : List Bool) (h : w.env = .script (byteBits v ++ l)) :
    w.readByte.1 = v ∧ w.readByte.2.env = .script l := by
  obtain ⟨h1, h2⟩ := readBits_script 8 w (byteBits v) l rfl h
  exact ⟨by rw [Wire.readByte, h1, byteOfBits_byteBits], h2⟩

end Sys2Proof.Machine
end

