-- ==== Sys2Proof/Laws/SearchDirectory.lean ====
section
/-!
SUPPORT. What select, a walk, a search pass and the discovery loop can do, once each (41_search_directory.md R141-R151).
-/

namespace Sys2Proof.Machine

/-! ### Select -/

/-- Everything `Select(i)` can do (R151). -/
theorem selectSlot_cases (s : State) (i : Nat) :
    (s.dirCount ≤ i ∧ s.selectSlot i = (.badIndex, s)) ∨
    (i < s.dirCount ∧ s.wire.env.presenceLevel s.wire.trace = true ∧ s.selectSlot i = (.busTimeout, s.busReset.2)) ∨
    (i < s.dirCount ∧ s.wire.env.presenceLevel s.wire.trace = false ∧
      s.selectSlot i = (.ok, { s.busReset.2 with
        wire := (s.wire.reset.2.writeByte s.build.cmdMatch).writeBytes (s.dirEntry i).toList })) := by
  unfold State.selectSlot
  by_cases h : s.dirCount ≤ i
  · exact .inl ⟨h, by simp [h]⟩
  · cases hp : s.wire.env.presenceLevel s.wire.trace
    · exact .inr (.inr ⟨by omega, rfl, by simp [h, hp]⟩)
    · exact .inr (.inl ⟨by omega, rfl, by simp [h, hp]⟩)

/-- `Select(i)` writes PRESENCE and the line, nothing else. -/
theorem selectSlot_frame (s : State) (i : Nat) :
    (s.selectSlot i).2 = { s with wire := (s.selectSlot i).2.wire, presence := (s.selectSlot i).2.presence } := by
  obtain ⟨-, h⟩ | ⟨-, -, h⟩ | ⟨-, -, h⟩ := selectSlot_cases s i <;> rw [h] <;> rfl

/-- The errors of `Select(i)`. -/
theorem selectSlot_err (s : State) (i : Nat) : (s.selectSlot i).1 ∈ [Err.ok, .badIndex, .busTimeout] := by
  obtain ⟨-, h⟩ | ⟨-, -, h⟩ | ⟨-, -, h⟩ := selectSlot_cases s i <;> simp [h]

/-- The line is released after `Select(i)`. -/
theorem selectSlot_drv (s : State) (i : Nat) (h : s.wire.drv = false) : (s.selectSlot i).2.wire.drv = false := by
  obtain ⟨-, e⟩ | ⟨-, -, e⟩ | ⟨-, -, e⟩ := selectSlot_cases s i <;> rw [e]
  · exact h
  · rfl
  · exact writeBytes_drv _ _ (writeByte_drv _ _)

/-! ### One position of a walk -/

/-- Everything one position can do (R141): stop on `(1, 1)`, or take a direction. -/
theorem position_cases (form : CrcForm) (ld p : Nat) (w : Walk) :
    ∃ b cb, b = w.wire.env.readLevel w.wire.trace ∧ cb = w.wire.readBit.2.env.readLevel w.wire.readBit.2.trace ∧
      ((b = true ∧ cb = true ∧ w.position form ld p = (false, { w with wire := w.wire.readBit.2.readBit.2 })) ∨
        (¬(b = true ∧ cb = true) ∧ w.position form ld p = (true, w.take form ld p b cb w.wire.readBit.2.readBit.2))) := by
  refine ⟨_, _, rfl, rfl, ?_⟩
  unfold Walk.position
  by_cases h : w.wire.env.readLevel w.wire.trace = true ∧
      w.wire.readBit.2.env.readLevel w.wire.readBit.2.trace = true
  · exact .inl ⟨h.1, h.2, if_pos (by simp only [readBit_fst, h.1, h.2, Bool.and_self])⟩
  · exact .inr ⟨h, if_neg (by simpa only [readBit_fst, Bool.and_eq_true] using h)⟩

@[simp] theorem take_rom (form : CrcForm) (ld p : Nat) (b cb : Bool) (wire : Wire) (w : Walk) :
    (w.take form ld p b cb wire).rom = setRomBit w.rom p (searchDirection w.rom ld p b cb) := rfl

@[simp] theorem take_wire (form : CrcForm) (ld p : Nat) (b cb : Bool) (wire : Wire) (w : Walk) :
    (w.take form ld p b cb wire).wire = wire.writeBit (searchDirection w.rom ld p b cb) := rfl

@[simp] theorem take_lastZero (form : CrcForm) (ld p : Nat) (b cb : Bool) (wire : Wire) (w : Walk) :
    (w.take form ld p b cb wire).lastZero =
      if b = cb ∧ searchDirection w.rom ld p b cb = false then p else w.lastZero := rfl

/-! ### A whole walk -/

/-- A property of the walk that every position keeps holds at its end, whichever way it ends. -/
theorem positions_induct (form : CrcForm) (ld : Nat) (P : Nat → Walk → Prop)
    (step : ∀ p w, P p w → P (p + 1) (w.position form ld p).2)
    (n p : Nat) (w : Walk) (h : P p w) : ∃ q, p ≤ q ∧ q ≤ p + n ∧ P q (Walk.positions form ld n p w).2 := by
  induction n generalizing p w with
  | zero => exact ⟨p, le_refl _, le_refl _, h⟩
  | succ n ih =>
    unfold Walk.positions
    by_cases hp : (w.position form ld p).1
    · obtain ⟨q, h1, h2, h3⟩ := ih (p + 1) _ (step p w h)
      exact ⟨q, by omega, by omega, by simpa [hp] using h3⟩
    · exact ⟨p + 1, by omega, by omega, by simpa [hp] using step p w h⟩

/-- The last zero choice lies before the position the walk has reached. -/
theorem position_lastZero (form : CrcForm) (ld p : Nat) (w : Walk) (h : w.lastZero ≤ p) :
    (w.position form ld p).2.lastZero ≤ p := by
  obtain ⟨b, cb, -, -, ⟨-, -, e⟩ | ⟨-, e⟩⟩ := position_cases form ld p w
  · rw [e]; exact h
  · rw [e, take_lastZero]; split <;> omega

theorem positions_lastZero (form : CrcForm) (ld n p : Nat) (w : Walk) (h : w.lastZero ≤ p) :
    (Walk.positions form ld n p w).2.lastZero ≤ p + n - 1 ∨ (Walk.positions form ld n p w).2.lastZero ≤ p := by
  induction n generalizing p w with
  | zero => exact .inr h
  | succ n ih =>
    have hp := position_lastZero form ld p w h
    unfold Walk.positions
    by_cases hb : (w.position form ld p).1
    · have := ih (p + 1) _ (Nat.le_succ_of_le hp)
      simp only [hb, ite_true]
      cases n with
      | zero => exact .inr hp
      | succ n => omega
    · simp only [hb]
      exact .inr hp

/-- A walk leaves the line released. -/
theorem positions_drv (form : CrcForm) (ld n p : Nat) (w : Walk) (h : w.wire.drv = false) :
    (Walk.positions form ld n p w).2.wire.drv = false := by
  obtain ⟨-, -, -, h⟩ := positions_induct form ld (fun _ w => w.wire.drv = false) (fun p w _ => by
    obtain ⟨b, cb, -, -, ⟨-, -, e⟩ | ⟨-, e⟩⟩ := position_cases form ld p w <;> rw [e] <;> rfl) n p w h
  exact h

/-! ### The end of a pass -/

/-- Everything the end of a pass can do (R142, R145, R146, R147). -/
theorem endPass_cases (s : State) (r : Bool × Walk) :
    (r.1 = false ∧ s.endPass r = (.searchNoDevice,
      { s with wire := r.2.wire, rom := r.2.rom, crc := r.2.crc, ld := 0, ldf := false, found := false })) ∨
    (r.1 = true ∧ r.2.crc ≠ 0 ∧ s.endPass r = (.checksumMismatch,
      { s with wire := r.2.wire, rom := r.2.rom, crc := r.2.crc, ld := 0, ldf := false, found := false })) ∨
    (r.1 = true ∧ r.2.crc = 0 ∧ s.endPass r = (.ok,
      { s with
        wire := r.2.wire
        rom := r.2.rom
        crc := r.2.crc
        ld := r.2.lastZero
        ldf := if r.2.lastZero = 0 then true else s.ldf
        found := true })) := by
  unfold State.endPass
  cases h : r.1
  · exact .inl ⟨rfl, by simp [State.abandonSearch]⟩
  · by_cases hc : r.2.crc = 0
    · exact .inr (.inr ⟨rfl, hc, by simp [hc]⟩)
    · exact .inr (.inl ⟨rfl, hc, by simp [show ¬r.2.crc = 0#8 from hc, State.abandonSearch]⟩)

/-- The state a pass walks from, after its reset: "find first" has cleared LD and LDF (R141). -/
def State.passStart (s : State) (first : Bool) : State :=
  { s.busReset.2 with ld := if first then 0 else s.ld, ldf := false }

/-- The 64 positions of a pass whose reset saw presence (R141). -/
def State.passWalk (s : State) (first : Bool) : Bool × Walk :=
  Walk.positions s.build.crcForm (if first then 0 else s.ld) 64 1
    { wire := s.wire.reset.2.writeByte s.build.cmdSearch, rom := s.rom, crc := 0, lastZero := 0 }

theorem walk_passStart (s : State) (first : Bool) :
    (s.passStart first).walk = (s.passStart first).endPass (s.passWalk first) := rfl

/-- Everything the start of a pass can do (R141): exhausted, no presence, or the walk. -/
theorem searchPass_cases (s : State) (first : Bool) :
    (first = false ∧ s.ldf = true ∧ s.searchPass first = (.searchExhausted, s.abandonSearch)) ∨
    ((first = true ∨ s.ldf = false) ∧ s.wire.env.presenceLevel s.wire.trace = true ∧
      s.searchPass first = (.busTimeout, s.busReset.2.abandonSearch)) ∨
    ((first = true ∨ s.ldf = false) ∧ s.wire.env.presenceLevel s.wire.trace = false ∧
      s.searchPass first = (s.passStart first).endPass (s.passWalk first)) := by
  rw [← walk_passStart]
  unfold State.passStart
  cases first
  · by_cases hl : s.ldf = true
    · exact .inl ⟨rfl, hl, by simp [State.searchPass, hl]⟩
    · have hl : s.ldf = false := by simpa using hl
      cases hp : s.wire.env.presenceLevel s.wire.trace
      · refine .inr (.inr ⟨.inr hl, rfl, ?_⟩)
        have e : ({ s.busReset.2 with ld := s.ld, ldf := false } : State) = s.busReset.2 := by rw [← hl]; rfl
        simp only [Bool.false_eq_true, ite_false, e]
        simp [State.searchPass, hl, hp]
      · exact .inr (.inl ⟨.inr hl, rfl, by simp [State.searchPass, hl, hp]⟩)
  · have e : ∀ u : State, ({ u with ld := 0, ldf := false } : State).busReset =
        (u.busReset.1, { u.busReset.2 with ld := 0, ldf := false }) := fun _ => rfl
    cases hp : s.wire.env.presenceLevel s.wire.trace
    · exact .inr (.inr ⟨.inl rfl, rfl, by simp [State.searchPass, e, hp]⟩)
    · exact .inr (.inl ⟨.inl rfl, rfl, by simp [State.searchPass, e, hp, State.abandonSearch]⟩)

/-- A pass writes the search state, CRC, PRESENCE and the line, nothing else (R148, R149). -/
theorem searchPass_frame (s : State) (first : Bool) :
    (s.searchPass first).2 = { s with
      wire := (s.searchPass first).2.wire
      crc := (s.searchPass first).2.crc
      rom := (s.searchPass first).2.rom
      ld := (s.searchPass first).2.ld
      ldf := (s.searchPass first).2.ldf
      found := (s.searchPass first).2.found
      presence := (s.searchPass first).2.presence } := by
  obtain ⟨-, -, h⟩ | ⟨-, -, h⟩ | ⟨-, -, h⟩ := searchPass_cases s first
  · rw [h]; rfl
  · rw [h]; rfl
  · rw [h]
    obtain ⟨-, e⟩ | ⟨-, -, e⟩ | ⟨-, -, e⟩ := endPass_cases (s.passStart first) (s.passWalk first) <;> rw [e] <;> rfl

/-- The highest zero choice is one of the 64 positions (R144). -/
theorem passWalk_lastZero (s : State) (first : Bool) : (s.passWalk first).2.lastZero ≤ 64 :=
  (positions_lastZero s.build.crcForm (if first then 0 else s.ld) 64 1 _ (Nat.zero_le _)).elim id
    (fun h => le_trans h (by decide))

/-- What a pass leaves in the search state (R146, R147). -/
theorem searchPass_result (s : State) (first : Bool) :
    ((s.searchPass first).1 = .ok ∧ (s.searchPass first).2.found = true ∧ (s.searchPass first).2.crc = 0 ∧
        (s.searchPass first).2.ld ≤ 64 ∧
        ((s.searchPass first).2.ldf = true ↔ (s.searchPass first).2.ld = 0)) ∨
    ((s.searchPass first).1 ∈ [Err.busTimeout, .checksumMismatch, .searchNoDevice, .searchExhausted] ∧
      ((s.searchPass first).1 = .searchExhausted → first = false) ∧ (s.searchPass first).2.found = false ∧
      (s.searchPass first).2.ld = 0 ∧ (s.searchPass first).2.ldf = false) := by
  obtain ⟨hf, -, h⟩ | ⟨-, -, h⟩ | ⟨-, -, h⟩ := searchPass_cases s first
  · exact .inr (by rw [h]; simp [State.abandonSearch, hf])
  · exact .inr (by rw [h]; simp [State.abandonSearch])
  · rw [h]
    obtain ⟨-, e⟩ | ⟨-, -, e⟩ | ⟨-, hc, e⟩ := endPass_cases (s.passStart first) (s.passWalk first) <;> rw [e]
    · exact .inr (by simp)
    · exact .inr (by simp)
    · refine .inl ⟨rfl, rfl, hc, passWalk_lastZero s first, ?_⟩
      by_cases h0 : (s.passWalk first).2.lastZero = 0 <;> simp [h0, State.passStart]

/-- A pass leaves the line released. -/
theorem searchPass_drv (s : State) (first : Bool) (h : s.wire.drv = false) :
    (s.searchPass first).2.wire.drv = false := by
  obtain ⟨-, -, e⟩ | ⟨-, -, e⟩ | ⟨-, -, e⟩ := searchPass_cases s first
  · rw [e]; exact h
  · rw [e]; rfl
  · rw [e]
    have hd : (s.passWalk first).2.wire.drv = false := positions_drv _ _ _ _ _ (writeByte_drv _ _)
    obtain ⟨-, e⟩ | ⟨-, -, e⟩ | ⟨-, -, e⟩ := endPass_cases (s.passStart first) (s.passWalk first) <;> rw [e] <;> exact hd

@[simp] theorem searchPass_build (s : State) (first : Bool) : (s.searchPass first).2.build = s.build := by
  rw [searchPass_frame]

@[simp] theorem searchPass_dir (s : State) (first : Bool) : (s.searchPass first).2.dir = s.dir := by
  rw [searchPass_frame]

@[simp] theorem searchPass_dirCount (s : State) (first : Bool) : (s.searchPass first).2.dirCount = s.dirCount := by
  rw [searchPass_frame]

/-- A pass neither reads nor writes the directory, ERR and RESULT (R141). -/
theorem searchPass_outside (s : State) (first : Bool) (d : List Address) (c : Nat) (e : Err) (r : Word) :
    ({ s with dir := d, dirCount := c, err := e, result := r } : State).searchPass first =
      ((s.searchPass first).1, { (s.searchPass first).2 with dir := d, dirCount := c, err := e, result := r }) := by
  have hw : ∀ u : State, ({ u with dir := d, dirCount := c, err := e, result := r } : State).walk =
      (u.walk.1, { u.walk.2 with dir := d, dirCount := c, err := e, result := r }) := by
    intro u
    unfold State.walk State.endPass
    dsimp only
    split
    · rfl
    · split <;> rfl
  have key : ∀ u : State, ({ u with dir := d, dirCount := c, err := e, result := r } : State).searchPass false =
      ((u.searchPass false).1, { (u.searchPass false).2 with dir := d, dirCount := c, err := e, result := r }) := by
    intro u
    have hb : ({ u with dir := d, dirCount := c, err := e, result := r } : State).busReset =
      (u.busReset.1, { u.busReset.2 with dir := d, dirCount := c, err := e, result := r }) := rfl
    unfold State.searchPass
    simp only [Bool.false_eq_true, ite_false, hb, hw]
    by_cases hl : u.ldf = true
    · rw [if_pos hl, if_pos hl]; rfl
    · rw [if_neg hl, if_neg hl]
      by_cases hp : u.busReset.1 = true
      · rw [if_pos hp, if_pos hp]
      · rw [if_neg hp, if_neg hp]; rfl
  cases first
  · exact key s
  · exact key { s with ld := 0, ldf := false }

@[simp] theorem storeFound_build (s : State) : s.storeFound.build = s.build := rfl
@[simp] theorem storeFound_ldf (s : State) : s.storeFound.ldf = s.ldf := rfl
@[simp] theorem storeFound_dirCount (s : State) : s.storeFound.dirCount = s.dirCount + 1 := rfl
@[simp] theorem storeFound_dir (s : State) : s.storeFound.dir = s.dir.set s.dirCount s.rom := rfl

/-- Storing a found address fills the next entry and leaves the others (R150). -/
theorem storeFound_dirEntry (s : State) (h : s.dirCount < s.dir.length) (i : Nat) :
    s.storeFound.dirEntry i = if i = s.dirCount then s.rom else s.dirEntry i := by
  simp only [State.dirEntry, storeFound_dir, List.getD_eq_getElem?_getD]
  by_cases hi : i = s.dirCount
  · subst hi; simp [h]
  · rw [List.getElem?_set_ne (by omega)]; simp [hi]

/-- The discovery loop (R150): what its passes keep (`P`) gives what it ends with (`Q`). It ends on a failed pass, on the
last device, or on a full directory; the rounds it is given are enough. -/
theorem discover_induct (P Q : Err → State → Prop)
    (failed : ∀ e s, P e s → e ≠ .ok → Q e s)
    (last : ∀ s, P .ok s → s.ldf = true → Q .ok s.storeFound)
    (full : ∀ s, P .ok s → s.ldf = false → s.dirCount + 1 = s.build.dirCap → Q .directoryFull s.storeFound)
    (more : ∀ s, P .ok s → s.ldf = false → s.dirCount + 1 ≠ s.build.dirCap →
      P (s.storeFound.searchPass false).1 (s.storeFound.searchPass false).2)
    (n : Nat) (r : Err × State) (h : P r.1 r.2) (hn : r.2.dirCount + n = r.2.build.dirCap) (h1 : 1 ≤ n) :
    Q (State.discover n r).1 (State.discover n r).2 := by
  induction n generalizing r with
  | zero => omega
  | succ n ih =>
    obtain ⟨e, s⟩ := r
    unfold State.discover
    by_cases he : e = .ok
    · subst he
      cases hl : s.ldf
      · by_cases hf : s.dirCount + 1 = s.build.dirCap
        · simpa [hl, hf] using full s h hl hf
        · simpa [hl, hf] using ih _ (more s h hl hf) (by simp at hn ⊢; omega) (by simp at hn; omega)
      · simpa [hl] using last s h hl
    · simpa [he] using failed e s h he

end Sys2Proof.Machine
end

