-- ==== Sys2Proof/Laws/Acquisition.lean ====
section
/-!
SUPPORT. What the parts of the acquisition pipeline can do, once each (42_acquisition.md R172-R180), and that a clock
step, a history roll and an output step write nothing but their own fields.
-/

namespace Sys2Proof.Machine

/-! ### One value per channel -/

@[simp] theorem get_s0 {α : Type} (x : PerSensor α) : x.get .s0 = x.s0 := rfl
@[simp] theorem get_s1 {α : Type} (x : PerSensor α) : x.get .s1 = x.s1 := rfl

@[simp] theorem get_map {α β : Type} (f : α → β) (x : PerSensor α) (ch : Sensor) : (x.map f).get ch = f (x.get ch) := by
  cases ch <;> rfl

/-- Changing one channel changes that one only. -/
theorem get_modify {α : Type} (x : PerSensor α) (c ch : Sensor) (f : α → α) :
    (x.modify c f).get ch = if ch = c then f (x.get ch) else x.get ch := by
  cases c <;> cases ch <;> rfl

/-! ### Conversion start -/

/-- Everything `StartConv()` can do (R172). -/
theorem startConv_cases (s : State) :
    (s.wire.env.presenceLevel s.wire.trace = false ∧ 0 < s.dirCount ∧
      s.startConv = (true, (s.busReset.2.busWriteByte s.build.cmdSkip).busWriteByte s.build.cmdConvert)) ∨
    ((s.wire.env.presenceLevel s.wire.trace = true ∨ s.dirCount = 0) ∧
      s.startConv = (!s.wire.env.presenceLevel s.wire.trace, s.busReset.2)) := by
  unfold State.startConv
  cases hp : s.wire.env.presenceLevel s.wire.trace
  · by_cases hd : 0 < s.dirCount
    · exact .inl ⟨rfl, hd, by simp [hp, hd]⟩
    · exact .inr ⟨.inr (by omega), by simp [hp, hd, State.busReset]⟩
  · exact .inr ⟨.inl rfl, by simp [hp, State.busReset]⟩

/-- `StartConv()` writes PRESENCE and the line, nothing else, and answers PRESENCE. -/
theorem startConv_frame (s : State) :
    (s.startConv).1 = !s.wire.env.presenceLevel s.wire.trace ∧
    (s.startConv).2 = { s with
      wire := (s.startConv).2.wire, presence := !s.wire.env.presenceLevel s.wire.trace } ∧
    (s.startConv).2.wire.drv = false := by
  obtain ⟨hp, -, e⟩ | ⟨-, e⟩ := startConv_cases s
  · rw [e, hp]
    refine ⟨rfl, ?_, writeByte_drv _ _⟩
    simp [State.busWriteByte, State.busReset, hp]
  · rw [e]
    exact ⟨rfl, rfl, rfl⟩

/-! ### The scratchpad -/

/-- Reading scratchpad bytes writes SCRATCH, CRC and the line. -/
theorem readScratchBytes_frame (ks : List Nat) (s : State) :
    ks.foldl State.readScratchByte s = { s with
      wire := (ks.foldl State.readScratchByte s).wire
      scratch := (ks.foldl State.readScratchByte s).scratch
      crc := (ks.foldl State.readScratchByte s).crc } := by
  induction ks generalizing s with
  | nil => rfl
  | cons k ks ih =>
    rw [List.foldl_cons, ih]
    rfl

/-- The nine bytes read write SCRATCH, CRC and the line (R173). -/
theorem readScratch_frame (s : State) :
    s.readScratch = { s with
      wire := s.readScratch.wire, scratch := s.readScratch.scratch, crc := s.readScratch.crc } :=
  (readScratchBytes_frame _ _).trans rfl

theorem readScratch_drv (s : State) : s.readScratch.wire.drv = false := readByte_drv _

/-- Scratchpad bytes read from a script are its next answers, byte by byte (R173). -/
theorem readScratchBytes_script (ks : List Nat) (bs : List Byte) (rest : List Bool) (s : State)
    (hk : ks.length = bs.length) (h : s.wire.env = .script (bs.flatMap byteBits ++ rest)) :
    (ks.foldl State.readScratchByte s).wire.env = .script rest ∧
    (ks.foldl State.readScratchByte s).crc = crcFold s.build.crcForm s.crc bs ∧
    (ks.foldl State.readScratchByte s).scratch = (ks.zip bs).foldl (fun sp kb => sp.setIfInBounds kb.1 kb.2) s.scratch ∧
    (ks.foldl State.readScratchByte s).wire.trace =
      ((bs.flatMap byteBits).map BusEvent.read).reverse ++ s.wire.trace := by
  induction ks generalizing bs s with
  | nil => cases bs with
    | nil => exact ⟨by simpa using h, rfl, rfl, rfl⟩
    | cons => simp at hk
  | cons k ks ih =>
    cases bs with
    | nil => simp at hk
    | cons b bs =>
      have h' : s.wire.env = .script (byteBits b ++ (bs.flatMap byteBits ++ rest)) := by simpa using h
      obtain ⟨e1, e2⟩ := readByte_script s.wire b _ h'
      have e3 := readByte_trace s.wire
      rw [e1] at e3
      have hb : s.readScratchByte k = { s with
          wire := s.wire.readByte.2
          scratch := s.scratch.setIfInBounds k b
          crc := crcStep s.build.crcForm s.crc b } := by
        rw [State.readScratchByte, e1]
      obtain ⟨a1, a2, a3, a4⟩ := ih bs (s.readScratchByte k) (by simpa using hk) (by rw [hb]; exact e2)
      rw [List.foldl_cons]
      refine ⟨a1, ?_, ?_, ?_⟩
      · rw [a2, hb]; rfl
      · rw [a3, hb]; rfl
      · rw [a4, hb]; simp only [e3]; simp

/-- Setting the nine bytes one by one gives the scratchpad they make up. -/
theorem setAll_scratch (sp b : Scratchpad) :
    (([0, 1, 2, 3, 4, 5, 6, 7, 8] : List Nat).zip b.toList).foldl (fun sp kb => sp.setIfInBounds kb.1 kb.2) sp = b := by
  have hz : (([0, 1, 2, 3, 4, 5, 6, 7, 8] : List Nat).zip b.toList) =
      [(0, b[0]), (1, b[1]), (2, b[2]), (3, b[3]), (4, b[4]), (5, b[5]), (6, b[6]), (7, b[7]), (8, b[8])] := by
    apply List.ext_getElem
    · simp
    · intro n h1 h2
      simp at h1
      have : n < 9 := by simpa using h2
      interval_cases n <;> simp
  rw [hz]
  simp only [List.foldl_cons, List.foldl_nil]
  apply Vector.ext
  intro i hi
  interval_cases i <;> simp

/-- A scratchpad read from a script is its next nine bytes (R173). -/
theorem readScratch_script (b : Scratchpad) (rest : List Bool) (s : State)
    (h : s.wire.env = .script (b.toList.flatMap byteBits ++ rest)) :
    s.readScratch.wire.env = .script rest ∧ s.readScratch.crc = crcFold s.build.crcForm 0 b.toList ∧
    s.readScratch.scratch = b ∧
    s.readScratch.wire.trace =
      ((b.toList.flatMap byteBits).map BusEvent.read).reverse ++ (s.wire.writeByte s.build.cmdReadSp).trace := by
  obtain ⟨a1, a2, a3, a4⟩ := readScratchBytes_script [0, 1, 2, 3, 4, 5, 6, 7, 8] b.toList rest
    { s.busWriteByte s.build.cmdReadSp with crc := 0 } (by simp) (writeByte_env_script _ _ _ h)
  have e : ([0, 1, 2, 3, 4, 5, 6, 7, 8] : List Nat).foldl State.readScratchByte
      { s.busWriteByte s.build.cmdReadSp with crc := 0 } = s.readScratch := rfl
  rw [e] at a1 a2 a3 a4
  exact ⟨a1, a2.trans rfl, a3.trans (setAll_scratch s.scratch b), a4.trans rfl⟩

/-! ### One channel -/

/-- Everything `ReadChannel(ch)` can do (R173): no slot, select failed, or nine bytes judged. -/
theorem readChannel_cases (s : State) (ch : Sensor) :
    (s.dirCount ≤ ch.slot ∧ s.readChannel ch = s.rejectChannel ch .invalidReading) ∨
    (ch.slot < s.dirCount ∧ s.wire.env.presenceLevel s.wire.trace = true ∧
      s.readChannel ch = s.busReset.2.rejectChannel ch .busTimeout) ∨
    (ch.slot < s.dirCount ∧ s.wire.env.presenceLevel s.wire.trace = false ∧
      s.readChannel ch = ((s.selectSlot ch.slot).2.readScratch).judgeScratch ch) := by
  unfold State.readChannel
  obtain ⟨hd, e⟩ | ⟨hd, hp, e⟩ | ⟨hd, hp, e⟩ := selectSlot_cases s ch.slot
  · exact .inl ⟨hd, if_pos hd⟩
  · exact .inr (.inl ⟨hd, hp, by simp [Nat.not_le.2 hd, e]⟩)
  · exact .inr (.inr ⟨hd, hp, by simp [Nat.not_le.2 hd, e]⟩)

/-- What `ReadChannel(ch)` leaves in its own channel (R173, R179, R182), and that it leaves the other one alone. -/
theorem readChannel_sensor (s : State) (ch : Sensor) :
    ∃ f : SensorChan → SensorChan, (s.readChannel ch).sensor = s.sensor.modify ch f ∧
      ((∃ t, f = SensorChan.accept t) ∨ (∃ e, e ≠ Err.ok ∧ f = SensorChan.reject e)) ∧
      (s.dirCount ≤ ch.slot → f = SensorChan.reject .invalidReading) ∧
      (ch.slot < s.dirCount →
        (∃ t, f = SensorChan.accept t) ∨ f = SensorChan.reject .busTimeout ∨ f = SensorChan.reject .checksumMismatch) := by
  obtain ⟨hd, e⟩ | ⟨hd, -, e⟩ | ⟨hd, -, e⟩ := readChannel_cases s ch
  · exact ⟨_, by rw [e]; rfl, .inr ⟨_, by decide, rfl⟩, fun _ => rfl, fun h => absurd h (by omega)⟩
  · exact ⟨_, by rw [e]; rfl, .inr ⟨_, by decide, rfl⟩, fun h => absurd h (by omega), fun _ => .inr (.inl rfl)⟩
  · have hs : ((s.selectSlot ch.slot).2.readScratch).sensor = s.sensor := by rw [readScratch_frame, selectSlot_frame]
    rw [e, State.judgeScratch]
    by_cases hc : ((s.selectSlot ch.slot).2.readScratch).crc = 0
    · refine ⟨SensorChan.accept (convert (s.selectSlot ch.slot).2.readScratch.build.tempRounding
        (rawTemp (s.selectSlot ch.slot).2.readScratch.scratch)), ?_, .inl ⟨_, rfl⟩, fun h => absurd h (by omega), fun _ => .inl ⟨_, rfl⟩⟩
      rw [if_pos hc, State.acceptChannel]
      exact congrArg (fun x => PerSensor.modify x ch _) hs
    · refine ⟨SensorChan.reject .checksumMismatch, ?_, .inr ⟨.checksumMismatch, by decide, rfl⟩, fun h => absurd h (by omega), fun _ => .inr (.inr rfl)⟩
      rw [if_neg hc, State.rejectChannel]
      exact congrArg (fun x => PerSensor.modify x ch _) hs

/-- `ReadChannel(ch)` writes the readings, SCRATCH, CRC, PRESENCE and the line, nothing else. -/
theorem readChannel_frame (s : State) (ch : Sensor) :
    s.readChannel ch = { s with
      wire := (s.readChannel ch).wire
      crc := (s.readChannel ch).crc
      scratch := (s.readChannel ch).scratch
      sensor := (s.readChannel ch).sensor
      presence := (s.readChannel ch).presence } := by
  obtain ⟨-, e⟩ | ⟨-, -, e⟩ | ⟨-, -, e⟩ := readChannel_cases s ch
  · rw [e]; rfl
  · rw [e]; rfl
  · rw [e, State.judgeScratch]
    have h1 := selectSlot_frame s ch.slot
    have h2 := readScratch_frame (s.selectSlot ch.slot).2
    generalize (s.selectSlot ch.slot).2.readScratch = r at h2 ⊢
    generalize (s.selectSlot ch.slot).2 = u at h1 h2
    rw [h1] at h2
    split <;> (rw [h2]; rfl)

theorem readChannel_drv (s : State) (ch : Sensor) (h : s.wire.drv = false) : (s.readChannel ch).wire.drv = false := by
  obtain ⟨-, e⟩ | ⟨-, -, e⟩ | ⟨-, -, e⟩ := readChannel_cases s ch <;> rw [e]
  · exact h
  · rfl
  · rw [State.judgeScratch]; split <;> exact readScratch_drv (s.selectSlot ch.slot).2

/-- Both reads write the readings, SCRATCH, CRC, PRESENCE and the line, nothing else (R174). -/
theorem readChannels_frame (s : State) :
    s.readChannels = { s with
      wire := s.readChannels.wire
      crc := s.readChannels.crc
      scratch := s.readChannels.scratch
      sensor := s.readChannels.sensor
      presence := s.readChannels.presence } := by
  unfold State.readChannels
  have h1 := readChannel_frame s .s0
  have h2 := readChannel_frame (s.readChannel .s0) .s1
  generalize (s.readChannel .s0).readChannel .s1 = r at h2 ⊢
  generalize s.readChannel .s0 = u at h1 h2
  rw [h2, h1]

/-- What both reads leave in a channel: its own read decided it (R174). -/
theorem readChannels_get (s : State) (ch : Sensor) :
    ∃ f : SensorChan → SensorChan, s.readChannels.sensor.get ch = f (s.sensor.get ch) ∧
      ((∃ t, f = SensorChan.accept t) ∨ (∃ e, e ≠ Err.ok ∧ f = SensorChan.reject e)) ∧
      (s.dirCount ≤ ch.slot → f = SensorChan.reject .invalidReading) ∧
      (ch.slot < s.dirCount →
        (∃ t, f = SensorChan.accept t) ∨ f = SensorChan.reject .busTimeout ∨ f = SensorChan.reject .checksumMismatch) := by
  obtain ⟨f0, e0, h0⟩ := readChannel_sensor s .s0
  obtain ⟨f1, e1, h1⟩ := readChannel_sensor (s.readChannel .s0) .s1
  have hd : (s.readChannel .s0).dirCount = s.dirCount := by rw [readChannel_frame]
  rw [hd] at h1
  cases ch
  · exact ⟨f0, by rw [State.readChannels, e1, get_modify, e0, get_modify]; rfl, h0⟩
  · exact ⟨f1, by rw [State.readChannels, e1, get_modify, e0, get_modify]; rfl, h1⟩

theorem readChannels_drv (s : State) (h : s.wire.drv = false) : s.readChannels.wire.drv = false :=
  readChannel_drv _ _ (readChannel_drv _ _ h)

theorem readScratchBytes_finish (ks : List Nat) (s : State) (e : Err) (r : Word) :
    ks.foldl State.readScratchByte (s.finish e r) = (ks.foldl State.readScratchByte s).finish e r := by
  induction ks generalizing s with
  | nil => rfl
  | cons k ks ih => rw [List.foldl_cons, List.foldl_cons, ← ih]; rfl

theorem readScratch_finish (s : State) (e : Err) (r : Word) : (s.finish e r).readScratch = s.readScratch.finish e r :=
  readScratchBytes_finish _ { s.busWriteByte s.build.cmdReadSp with crc := 0 } e r

/-- Reading a channel neither reads nor writes ERR and RESULT (R173). -/
theorem readChannel_finish (s : State) (ch : Sensor) (e : Err) (r : Word) :
    (s.finish e r).readChannel ch = (s.readChannel ch).finish e r := by
  have hs : (s.finish e r).selectSlot ch.slot = ((s.selectSlot ch.slot).1, (s.selectSlot ch.slot).2.finish e r) := by
    unfold State.selectSlot
    simp only [finish_dirCount]
    split
    · rfl
    · rw [show (s.finish e r).busReset = (s.busReset.1, s.busReset.2.finish e r) from rfl]
      dsimp only
      split <;> rfl
  have hj : ∀ u : State, (u.finish e r).judgeScratch ch = (u.judgeScratch ch).finish e r := by
    intro u
    unfold State.judgeScratch
    rw [finish_crc]
    by_cases h : u.crc = 0
    · rw [if_pos h, if_pos h]; rfl
    · rw [if_neg h, if_neg h]; rfl
  unfold State.readChannel
  simp only [finish_dirCount, hs, readScratch_finish, hj]
  split
  · rfl
  · split <;> rfl

theorem readChannels_finish (s : State) (e : Err) (r : Word) :
    (s.finish e r).readChannels = s.readChannels.finish e r := by
  unfold State.readChannels
  rw [readChannel_finish, readChannel_finish]

/-! ### Clock, history and outputs -/

/-- Widening touches the current slot of a valid channel only (R175). -/
theorem widen_hist (c : SensorChan) (i k : Fin 24) :
    (k = i → c.valid = true → (c.widen i).hist[k].lo.toInt = min c.hist[k].lo.toInt c.temp.toInt ∧
       (c.widen i).hist[k].hi.toInt = max c.hist[k].hi.toInt c.temp.toInt) ∧
    (k ≠ i ∨ c.valid = false → (c.widen i).hist[k] = c.hist[k]) := by
  constructor
  · intro hk hv
    subst hk
    simp [SensorChan.widen, hv, HistSlot.include, sMin_toInt, sMax_toInt]
  · intro hor
    unfold SensorChan.widen
    split
    · rename_i hv
      have hk : k ≠ i := by rcases hor with h | h; exact h; rw [hv] at h; cases h
      simp only [Fin.getElem_fin]
      rw [Vector.getElem_set_ne]
      exact fun h => hk (Fin.ext h.symm)
    · rfl

/-- Emptying a slot gives it the sentinels and leaves the other slots (R177). -/
theorem emptySlot_hist (c : SensorChan) (i k : Fin 24) :
    (k = i → (c.emptySlot i).hist[k] = HistSlot.empty) ∧ (k ≠ i → (c.emptySlot i).hist[k] = c.hist[k]) := by
  constructor
  · intro h; subst h; simp [SensorChan.emptySlot]
  · intro hk
    simp only [SensorChan.emptySlot, Fin.getElem_fin]
    rw [Vector.getElem_set_ne]
    exact fun h => hk (Fin.ext h.symm)

/-- `ClockStep()` writes the clock, LEAP and HOUR_ROLLED (R176). -/
theorem clockStep_frame (s : State) :
    s.clockStep = { s with
      sec := s.clockStep.sec
      minute := s.clockStep.minute
      hour := s.clockStep.hour
      leap := s.clockStep.leap
      hourRolled := s.clockStep.hourRolled } := by
  unfold State.clockStep
  dsimp only
  split
  · split <;> rfl
  · rfl

/-- The clock stays in range (R36, R37). -/
theorem clockStep_range (s : State) (hs : s.sec ≤ 59) (hm : s.minute ≤ 59) (hl : s.leap ≤ s.build.leapPeriod - 1)
    (hp : 1 ≤ s.build.leapPeriod) (hh : s.hour ≤ 23) :
    s.clockStep.sec ≤ 59 ∧ s.clockStep.minute ≤ 59 ∧ s.clockStep.hour ≤ 23 ∧
      s.clockStep.leap ≤ s.build.leapPeriod - 1 := by
  have hi : clockIncrement s ≤ 2 := by unfold clockIncrement; split <;> decide
  have hn : nextLeap s ≤ s.build.leapPeriod - 1 := by unfold nextLeap; split <;> omega
  unfold State.clockStep
  dsimp only
  split
  · split <;> simp only <;> omega
  · simp only; omega

/-- Only the outputs change in an output step (R208). -/
theorem outputStep_frame (s : State) : outputStep s = { s with out := (outputStep s).out } := rfl

/-- The clock part of a cycle: the clock step, and the roll exactly when the hour rolled (R180). -/
theorem clockAndRoll_eq (s : State) :
    s.clockAndRoll = if s.clockStep.hourRolled then s.clockStep.hourRoll else s.clockStep := rfl

/-- A clock step depends on the clock, LEAP and the build only. -/
theorem clockStep_congr {s u : State} (h1 : u.sec = s.sec) (h2 : u.minute = s.minute) (h3 : u.hour = s.hour)
    (h4 : u.leap = s.leap) (h5 : u.build = s.build) :
    u.clockStep.sec = s.clockStep.sec ∧ u.clockStep.minute = s.clockStep.minute ∧
      u.clockStep.hour = s.clockStep.hour ∧ u.clockStep.leap = s.clockStep.leap ∧
      u.clockStep.hourRolled = s.clockStep.hourRolled := by
  unfold State.clockStep clockIncrement nextLeap
  rw [h1, h2, h3, h4, h5]
  dsimp only
  generalize s.sec + (if s.leap + 1 = s.build.leapPeriod then 2 else 1) = d
  split
  · split <;> exact ⟨rfl, rfl, rfl, rfl, rfl⟩
  · exact ⟨rfl, rfl, rfl, rfl, rfl⟩

/-! ### The cycle -/

/-- Everything the data part of a cycle can do (R180): no presence at the conversion reset, or both channels read. -/
theorem acquireData_cases (s : State) :
    (s.wire.env.presenceLevel s.wire.trace = true ∧ s.acquireData =
      (.busTimeout, (s.busReset.2.rejectChannel .s0 .busTimeout).rejectChannel .s1 .busTimeout)) ∨
    (s.wire.env.presenceLevel s.wire.trace = false ∧
      s.acquireData = (readErr s.startConv.2.readChannels, s.startConv.2.readChannels)) := by
  unfold State.acquireData
  dsimp only
  rw [(startConv_frame s).1]
  cases hp : s.wire.env.presenceLevel s.wire.trace
  · exact .inr ⟨rfl, rfl⟩
  · obtain ⟨h, -, -⟩ | ⟨-, e⟩ := startConv_cases s
    · simp [hp] at h
    · exact .inl ⟨rfl, by rw [e]; rfl⟩

/-- The data part of a cycle writes the readings, SCRATCH, CRC, PRESENCE and the line, nothing else. -/
theorem acquireData_frame (s : State) :
    s.acquireData.2 = { s with
      wire := s.acquireData.2.wire
      crc := s.acquireData.2.crc
      scratch := s.acquireData.2.scratch
      sensor := s.acquireData.2.sensor
      presence := s.acquireData.2.presence } := by
  obtain ⟨-, e⟩ | ⟨-, e⟩ := acquireData_cases s
  · rw [e]; rfl
  · rw [e]
    have h1 := (startConv_frame s).2.1
    have h2 := readChannels_frame s.startConv.2
    generalize s.startConv.2.readChannels = r at h2 ⊢
    generalize s.startConv.2 = u at h1 h2
    rw [h2, h1]

theorem acquireData_drv (s : State) : s.acquireData.2.wire.drv = false := by
  obtain ⟨-, e⟩ | ⟨-, e⟩ := acquireData_cases s
  · rw [e]; rfl
  · rw [e]; exact readChannels_drv _ (startConv_frame s).2.2

/-- What the data part of a cycle leaves in a channel: accepted, or rejected with an error. -/
theorem acquireData_get (s : State) (ch : Sensor) :
    ∃ f : SensorChan → SensorChan, s.acquireData.2.sensor.get ch = f (s.sensor.get ch) ∧
      ((∃ t, f = SensorChan.accept t) ∨ (∃ e, e ≠ Err.ok ∧ f = SensorChan.reject e)) := by
  obtain ⟨-, e⟩ | ⟨-, e⟩ := acquireData_cases s
  · exact ⟨SensorChan.reject .busTimeout, by rw [e]; cases ch <;> rfl, .inr ⟨_, by decide, rfl⟩⟩
  · obtain ⟨f, h1, h2, -⟩ := readChannels_get s.startConv.2 ch
    have h3 : s.startConv.2.sensor = s.sensor := by rw [(startConv_frame s).2.1]
    exact ⟨f, by rw [e, h1, h3], h2⟩

/-- What the clock part of a cycle leaves alone, and that it is the clock step but for the history (R176, R177, R180). -/
theorem clockAndRoll_frame (s : State) :
    s.clockAndRoll = { s with
      sec := s.clockStep.sec
      minute := s.clockStep.minute
      hour := s.clockStep.hour
      leap := s.clockStep.leap
      hourRolled := s.clockStep.hourRolled
      histIdx := s.clockAndRoll.histIdx
      hoursSeen := s.clockAndRoll.hoursSeen
      sensor := s.clockAndRoll.sensor } := by
  rw [clockAndRoll_eq]
  have h := clockStep_frame s
  generalize s.clockStep = u at h ⊢
  split
  · rw [h]; rfl
  · rw [h]

/-- What a cycle writes and what it leaves alone (R180). -/
theorem cycle_frame (s : State) :
    s.cycle = { s with
      wire := s.acquireData.2.wire
      crc := s.acquireData.2.crc
      scratch := s.acquireData.2.scratch
      sensor := s.cycle.sensor
      histIdx := s.cycle.histIdx
      hoursSeen := s.cycle.hoursSeen
      sec := s.clockStep.sec
      minute := s.clockStep.minute
      hour := s.clockStep.hour
      leap := s.clockStep.leap
      out := (outputStep s.acquireData.2.minMax).out
      err := s.acquireData.1
      presence := s.acquireData.2.presence
      hourRolled := s.clockStep.hourRolled
      result := validBits s.cycle } := by
  have h1 := acquireData_frame s
  have h2 := clockAndRoll_frame (outputStep s.acquireData.2.minMax)
  obtain ⟨c1, c2, c3, c4, c5⟩ := clockStep_congr (s := s) (u := outputStep s.acquireData.2.minMax)
    (by rw [h1]; rfl) (by rw [h1]; rfl) (by rw [h1]; rfl) (by rw [h1]; rfl) (by rw [h1]; rfl)
  rw [c1, c2, c3, c4, c5] at h2
  unfold State.cycle
  dsimp only
  generalize (outputStep s.acquireData.2.minMax).clockAndRoll = r at h2 ⊢
  generalize s.acquireData = u at h1 h2 ⊢
  obtain ⟨e, u⟩ := u
  dsimp only at h1 h2 ⊢
  rw [outputStep_frame u.minMax] at h2
  rw [h2]
  generalize outputStep u.minMax = v
  rw [h1]
  rfl

/-- What comes after the data part of a cycle leaves TEMP, VALID and CAUSE as the data part left them (R180). -/
theorem cycle_get (s : State) (ch : Sensor) :
    (s.cycle.sensor.get ch).temp = (s.acquireData.2.sensor.get ch).temp ∧
    (s.cycle.sensor.get ch).valid = (s.acquireData.2.sensor.get ch).valid ∧
    (s.cycle.sensor.get ch).cause = (s.acquireData.2.sensor.get ch).cause := by
  have hw : ∀ (i : Fin 24) (c : SensorChan),
      (c.widen i).temp = c.temp ∧ (c.widen i).valid = c.valid ∧ (c.widen i).cause = c.cause := by
    intro i c; unfold SensorChan.widen; split <;> exact ⟨rfl, rfl, rfl⟩
  unfold State.cycle
  dsimp only
  rw [finish_sensor, clockAndRoll_eq]
  have hs : (outputStep s.acquireData.2.minMax).clockStep.sensor =
      s.acquireData.2.sensor.map (SensorChan.widen s.acquireData.2.histIdx) := by
    rw [clockStep_frame]; rfl
  split
  · rw [hourRoll_sensor, hs]
    simp only [get_map]; exact hw _ _
  · rw [hs]; simp only [get_map]; exact hw _ _

end Sys2Proof.Machine
end

