-- ==== Sys2Proof/Laws/Decode.lean ====
section
/-!
SUPPORT. The two fields of a command word (30_encoding.md R90) and the encoder.
-/

namespace Sys2Proof

/-- The value of a word given by its two bytes. -/
theorem toNat_word (a o : Byte) : BitVec.toNat (w := 16) (a ++ o) = 256 * a.toNat + o.toNat := by
  refine (BitVec.toNat_append a o).trans ?_
  rw [← Nat.shiftLeft_add_eq_or_of_lt o.isLt, Nat.shiftLeft_eq, Nat.mul_comm]

@[simp] theorem opField_append (a o : Byte) : opField (a ++ o) = o := by
  apply BitVec.eq_of_toNat_eq
  simpa [opField, toNat_word] using o.isLt

@[simp] theorem operandField_append (a o : Byte) : operandField (a ++ o) = a := by
  apply BitVec.eq_of_toNat_eq
  simp [operandField, toNat_word, Nat.shiftRight_eq_div_pow]
  omega

@[simp] theorem opField_encode (i : Instr) : opField (encode i) = opcode i := opField_append _ _

@[simp] theorem operandField_encode (i : Instr) : operandField (encode i) = operandByte i := operandField_append _ _

theorem opField_toNat (w : Word) : (opField w).toNat = w.toNat % 256 := by simp [opField]

theorem operandField_toNat (w : Word) : (operandField w).toNat = w.toNat / 256 := by
  simp [operandField, Nat.shiftRight_eq_div_pow]
  omega

/-- A word is its two fields (R90). -/
theorem word_of_fields (w : Word) : operandField w ++ opField w = w := by
  apply BitVec.eq_of_toNat_eq
  rw [toNat_word, opField_toNat, operandField_toNat]
  omega

end Sys2Proof
end

