-- ==== Sys2Proof/Laws/SearchWalk.lean ====
section
/-!
SUPPORT. What the walk of a search pass puts on the bus, in ROM, in CRC and in the last zero choice
(41_search_directory.md R141-R146).
-/

namespace Sys2Proof.Machine

/-- The direction depends on ROM only at its own position. -/
theorem searchDirection_congr (r r' : Address) (ld p : Nat) (b cb : Bool) (h : romBit r p = romBit r' p) :
    searchDirection r ld p b cb = searchDirection r' ld p b cb := by
  unfold searchDirection discrepancyDirection
  rw [h]

/-- The slots of one position (R141): read the bit, read its complement, write the direction. -/
def triple (b : Bool × Bool) (d : Bool) : List BusEvent := [.read b.1, .read b.2, .write d]

/-- The slots of `n` positions from position `p` on: the pairs read are `bs`, the directions stand in `rom`. -/
def walkSlots (bs : Nat → Bool × Bool) (rom : Address) (n p : Nat) : List BusEvent :=
  (List.range n).flatMap (fun k => triple (bs k) (romBit rom (p + k)))

@[simp] theorem walkSlots_zero (bs : Nat → Bool × Bool) (rom : Address) (p : Nat) : walkSlots bs rom 0 p = [] := rfl

/-- The first position comes first. -/
theorem walkSlots_succ (bs : Nat → Bool × Bool) (rom : Address) (n p : Nat) :
    walkSlots bs rom (n + 1) p = triple (bs 0) (romBit rom p) ++ walkSlots (fun k => bs (k + 1)) rom n (p + 1) := by
  simp [walkSlots, List.range_succ_eq_map, List.flatMap_map, Nat.add_assoc, Nat.add_comm 1]

theorem walkSlots_length (bs : Nat → Bool × Bool) (rom : Address) (n p : Nat) :
    (walkSlots bs rom n p).length = 3 * n := by
  induction n generalizing bs p with
  | zero => rfl
  | succ n ih => rw [walkSlots_succ, List.length_append, ih]; simp [triple]; omega

/-- The slots of the position `p + k`. -/
theorem walkSlots_getElem? (bs : Nat → Bool × Bool) (rom : Address) (n p k : Nat) (h : k < n) :
    (walkSlots bs rom n p)[3 * k]? = some (.read (bs k).1) ∧
    (walkSlots bs rom n p)[3 * k + 1]? = some (.read (bs k).2) ∧
    (walkSlots bs rom n p)[3 * k + 2]? = some (.write (romBit rom (p + k))) := by
  induction n generalizing bs p k with
  | zero => omega
  | succ n ih =>
    rw [walkSlots_succ]
    cases k with
    | zero => exact ⟨rfl, rfl, rfl⟩
    | succ k =>
      obtain ⟨h1, h2, h3⟩ := ih (fun k => bs (k + 1)) (p + 1) k (by omega)
      have e : ∀ j, (triple (bs 0) (romBit rom p) ++ walkSlots (fun k => bs (k + 1)) rom n (p + 1))[3 * (k + 1) + j]? =
          (walkSlots (fun k => bs (k + 1)) rom n (p + 1))[3 * k + j]? := fun j => by
        rw [List.getElem?_append_right (by simp [triple]; omega)]
        congr 1
        simp [triple]; omega
      refine ⟨(e 0).trans h1, (e 1).trans h2, (e 2).trans ?_⟩
      rw [h3, show p + 1 + k = p + (k + 1) by omega]

/-- What a walk of `n` positions from `p` did with the pairs `bs`: the direction taken at each position stands in ROM. -/
def FollowsTree (w : Walk) (ld n p : Nat) (bs : Nat → Bool × Bool) (rom : Address) : Prop :=
  ∀ k, k < n → bs k ≠ (true, true) ∧
    romBit rom (p + k) = searchDirection w.rom ld (p + k) (bs k).1 (bs k).2

/-- A position where 0 was taken at a discrepancy (R144). -/
def TookZero (p : Nat) (bs : Nat → Bool × Bool) (rom : Address) (k : Nat) : Prop :=
  (bs k).1 = (bs k).2 ∧ romBit rom (p + k) = false

/-- A walk that is answered at every position (R141-R144). -/
theorem positions_true (form : CrcForm) (ld n p : Nat) (w : Walk) (hp : 1 ≤ p) (hn : p + n ≤ 65)
    (h : (Walk.positions form ld n p w).1 = true) :
    ∃ bs : Nat → Bool × Bool,
      (Walk.positions form ld n p w).2.wire.trace =
        (walkSlots bs (Walk.positions form ld n p w).2.rom n p).reverse ++ w.wire.trace ∧
      FollowsTree w ld n p bs (Walk.positions form ld n p w).2.rom ∧
      (∀ q, 1 ≤ q → q ≤ 64 → q < p ∨ p + n ≤ q →
        romBit (Walk.positions form ld n p w).2.rom q = romBit w.rom q) ∧
      (∀ k, k < n → (Walk.positions form ld n p w).2.lastZero < p + k →
        ¬TookZero p bs (Walk.positions form ld n p w).2.rom k) ∧
      ((Walk.positions form ld n p w).2.lastZero = w.lastZero ∨
        ∃ k, k < n ∧ (Walk.positions form ld n p w).2.lastZero = p + k ∧
          TookZero p bs (Walk.positions form ld n p w).2.rom k) := by
  induction n generalizing p w with
  | zero =>
    exact ⟨fun _ => (false, false), rfl, fun k hk => absurd hk (by omega), fun _ _ _ _ => rfl,
      fun k hk => absurd hk (by omega), .inl rfl⟩
  | succ n ih =>
    obtain ⟨b, cb, hb1, hb2, ⟨-, -, e⟩ | ⟨hb, e⟩⟩ := position_cases form ld p w
    · simp [Walk.positions, e] at h
    · have hr : Walk.positions form ld (n + 1) p w =
          Walk.positions form ld n (p + 1) (w.take form ld p b cb w.wire.readBit.2.readBit.2) := by
        simp only [Walk.positions, e, ite_true]
      rw [hr] at h ⊢
      obtain ⟨bs, h1, h2, h3, h4, h5⟩ := ih (p + 1) _ (by omega) (by omega) h
      generalize Walk.positions form ld n (p + 1) (w.take form ld p b cb w.wire.readBit.2.readBit.2) = r at *
      have hd : romBit r.2.rom p = searchDirection w.rom ld p b cb := by
        rw [h3 p hp (by omega) (.inl (by omega)), take_rom, romBit_setRomBit _ _ _ _ hp (by omega) hp (by omega), if_pos rfl]
      have hother : ∀ q, 1 ≤ q → q ≤ 64 → q ≠ p →
          romBit (w.take form ld p b cb w.wire.readBit.2.readBit.2).rom q = romBit w.rom q := fun q h h' hq => by
        rw [take_rom, romBit_setRomBit _ _ _ _ hp (by omega) h h', if_neg hq]
      have hshift : ∀ k, TookZero p (fun k => if k = 0 then (b, cb) else bs (k - 1)) r.2.rom (k + 1) ↔
          TookZero (p + 1) bs r.2.rom k := fun k => by
        simp [TookZero, Nat.add_assoc, Nat.add_comm 1]
      refine ⟨fun k => if k = 0 then (b, cb) else bs (k - 1), ?_, ?_, ?_, ?_, ?_⟩
      · rw [h1, walkSlots_succ, hd, take_wire]
        simp only [readBit_snd, ← hb1] at hb2
        simp [triple, ← hb1, ← hb2]
      · intro k hk
        cases k with
        | zero => exact ⟨by simpa using hb, by simpa using hd⟩
        | succ k =>
          obtain ⟨g1, g2⟩ := h2 k (by omega)
          refine ⟨by simpa using g1, ?_⟩
          rw [show p + (k + 1) = p + 1 + k by omega, g2]
          exact searchDirection_congr _ _ _ _ _ _ (hother _ (by omega) (by omega) (by omega))
      · intro q hq hq' ho
        rw [h3 q hq hq' (by omega), hother q hq hq' (by omega)]
      · intro k hk hlt
        cases k with
        | zero =>
          rintro ⟨z1, z2⟩
          have z2 : romBit r.2.rom p = false := z2
          rw [hd] at z2
          have : (w.take form ld p b cb w.wire.readBit.2.readBit.2).lastZero = p := by
            rw [take_lastZero, if_pos ⟨z1, z2⟩]
          obtain h5 | ⟨k, -, h5, -⟩ := h5 <;> omega
        | succ k =>
          rw [hshift]
          exact h4 k (by omega) (by omega)
      · obtain h5 | ⟨k, hk, h5, h6⟩ := h5
        · rw [take_lastZero] at h5
          split at h5
          · rename_i hz
            exact .inr ⟨0, by omega, h5, hz.1, by rw [Nat.add_zero, hd]; exact hz.2⟩
          · exact .inl h5
        · exact .inr ⟨k + 1, by omega, by omega, (hshift k).2 h6⟩

/-- A walk that stops because no device answers at some position (R142, R147). -/
theorem positions_false (form : CrcForm) (ld n p : Nat) (w : Walk) (hp : 1 ≤ p) (hn : p + n ≤ 65)
    (h : (Walk.positions form ld n p w).1 = false) :
    ∃ (m : Nat) (evs : List BusEvent), m < n ∧ evs.length = 3 * m ∧
      (Walk.positions form ld n p w).2.wire.trace = .read true :: .read true :: (evs.reverse ++ w.wire.trace) ∧
      ∀ q, p + m ≤ q → q ≤ 64 → romBit (Walk.positions form ld n p w).2.rom q = romBit w.rom q := by
  induction n generalizing p w with
  | zero => simp [Walk.positions] at h
  | succ n ih =>
    obtain ⟨b, cb, hb1, hb2, ⟨b1, b2, e⟩ | ⟨hb, e⟩⟩ := position_cases form ld p w
    · refine ⟨0, [], by omega, rfl, ?_, fun q _ _ => ?_⟩
      · simp only [readBit_snd, ← hb1] at hb2
        simp only [Walk.positions, e, Bool.false_eq_true, ite_false, readBit_snd, ← hb1, ← hb2]
        simp [b1, b2]
      · simp only [Walk.positions, e, Bool.false_eq_true, ite_false]
    · have hr : Walk.positions form ld (n + 1) p w =
          Walk.positions form ld n (p + 1) (w.take form ld p b cb w.wire.readBit.2.readBit.2) := by
        simp only [Walk.positions, e, ite_true]
      rw [hr] at h ⊢
      obtain ⟨m, evs, h1, h2, h3, h4⟩ := ih (p + 1) _ (by omega) (by omega) h
      refine ⟨m + 1, triple (b, cb) (searchDirection w.rom ld p b cb) ++ evs, by omega, ?_, ?_, ?_⟩
      · simp [triple, h2]; omega
      · rw [h3, take_wire]
        simp only [readBit_snd, ← hb1] at hb2
        simp [triple, ← hb1, ← hb2]
      · intro q hq hq'
        rw [h4 q (by omega) hq', take_rom, romBit_setRomBit _ _ _ _ hp (by omega) (by omega) hq', if_neg (by omega)]

/-! ### CRC over the walk -/

/-- Before position `p` the CRC is the fold of the completed bytes of ROM (R145). -/
def CrcSoFar (form : CrcForm) (p : Nat) (w : Walk) : Prop :=
  w.crc = crcFold form 0 (w.rom.toList.take ((p - 1) / 8))

theorem take_crcSoFar (form : CrcForm) (ld p : Nat) (b cb : Bool) (wire : Wire) (w : Walk) (hp : 1 ≤ p) (hp' : p ≤ 64)
    (h : CrcSoFar form p w) : CrcSoFar form (p + 1) (w.take form ld p b cb wire) := by
  have hj : (p - 1) / 8 < 8 := by omega
  have hkeep : (setRomBit w.rom p (searchDirection w.rom ld p b cb)).toList.take ((p - 1) / 8) =
      w.rom.toList.take ((p - 1) / 8) := by
    simp only [setRomBit, Vector.toList_setIfInBounds]
    rw [List.take_set_of_le (le_refl _)]
  unfold CrcSoFar at h ⊢
  simp only [Walk.take, Nat.add_sub_cancel]
  by_cases h8 : (p - 1) % 8 = 7
  · rw [if_pos h8, show p / 8 = (p - 1) / 8 + 1 by omega, List.take_succ_eq_append_getElem (by simpa using hj),
      crcFold_append, hkeep, ← h, vector_getD _ _ _ hj]
    simp
  · rw [if_neg h8, show p / 8 = (p - 1) / 8 by omega, hkeep, h]

/-- After an answered walk of all 64 positions the CRC is the fold of the whole address (R145). -/
theorem positions_crc (form : CrcForm) (ld n p : Nat) (w : Walk) (hp : 1 ≤ p) (hn : p + n ≤ 65)
    (hc : CrcSoFar form p w) (h : (Walk.positions form ld n p w).1 = true) :
    CrcSoFar form (p + n) (Walk.positions form ld n p w).2 := by
  induction n generalizing p w with
  | zero => exact hc
  | succ n ih =>
    obtain ⟨b, cb, -, -, ⟨-, -, e⟩ | ⟨-, e⟩⟩ := position_cases form ld p w
    · simp [Walk.positions, e] at h
    · have hr : Walk.positions form ld (n + 1) p w =
          Walk.positions form ld n (p + 1) (w.take form ld p b cb w.wire.readBit.2.readBit.2) := by
        simp only [Walk.positions, e, ite_true]
      rw [hr] at h ⊢
      have := ih (p + 1) _ (by omega) (by omega) (take_crcSoFar form ld p b cb _ w hp (by omega) hc) h
      rwa [show p + 1 + n = p + (n + 1) by omega] at this

/-- After an answered pass the CRC is the fold of ROM (R145). -/
theorem passWalk_crc (s : State) (first : Bool) (h : (s.passWalk first).1 = true) :
    (s.passWalk first).2.crc = crcFold s.build.crcForm 0 (s.passWalk first).2.rom.toList := by
  have := positions_crc s.build.crcForm (if first then 0 else s.ld) 64 1
    { wire := s.wire.reset.2.writeByte s.build.cmdSearch, rom := s.rom, crc := 0, lastZero := 0 }
    (by decide) (by decide) rfl h
  unfold CrcSoFar at this
  rwa [List.take_of_length_le (by simp)] at this

/-- A successful pass leaves in ROM an address that checks (R145). -/
theorem searchPass_checks (s : State) (first : Bool) (h : (s.searchPass first).1 = .ok) :
    crcFold s.build.crcForm 0 (s.searchPass first).2.rom.toList = 0 := by
  obtain ⟨-, -, e⟩ | ⟨-, -, e⟩ | ⟨-, -, e⟩ := searchPass_cases s first
  · rw [e] at h; cases h
  · rw [e] at h; cases h
  · rw [e] at h ⊢
    obtain ⟨-, e⟩ | ⟨-, -, e⟩ | ⟨h1, hc, e⟩ := endPass_cases (s.passStart first) (s.passWalk first)
    · rw [e] at h; cases h
    · rw [e] at h; cases h
    · rw [e]
      exact (hc ▸ passWalk_crc s first h1).symm

end Sys2Proof.Machine
end

