-- ==== Sys2Proof/Laws/Devices.lean ====
section
/-!
SUPPORT. The reference devices of 95_test_vectors.md in a search (log 4): what a reset and the search command leave them
in, and what one position of the walk reads from them and does to them.
-/

namespace Sys2Proof.Machine

/-- A device at position `p` of a search: still taking part iff `alive`. -/
def searching (alive : Device → Bool) (p : Nat) (d : Device) : Device :=
  if alive d then { d with active := true, proto := if p ≤ 64 then .search p .bit else .idle }
  else { d with active := false, proto := .idle }

/-- Write slots act on each device by itself. -/
theorem foldl_devices (bs : List Bool) (ds : List Device) :
    bs.foldl (fun e b => e.after (.write b)) (BusEnv.devices ds) =
      .devices (ds.map (fun d => bs.foldl (fun d b => d.after (.write b)) d)) := by
  induction bs generalizing ds with
  | nil => simp
  | cons b bs ih => simp [ih]

/-- A device after a reset and the search command 0xF0: at position 1 of a search. -/
theorem device_after_searchCommand (p : Bool) (d : Device) :
    (byteBits 0xF0).foldl (fun d b => d.after (.write b)) (d.after (.reset p)) =
      { d with active := true, proto := .search 1 .bit } := by
  have h : byteBits 0xF0 = [false, false, false, false, true, true, true, true] := by decide
  rw [h]
  simp [Device.after, Device.onWrite, Device.onRomCommand, setByteBit]

/-- A reset and a byte act on each device by itself. -/
theorem devices_after_byte (ds : List Device) (w : Wire) (v : Byte) (h : w.env = .devices ds) :
    (w.reset.2.writeByte v).env =
      .devices (ds.map (fun d => (byteBits v).foldl (fun d b => d.after (.write b)) (d.after (.reset (!ds.isEmpty))))) := by
  have h1 : w.reset.2.env = .devices (ds.map (Device.after (.reset (!ds.isEmpty)))) := by simp [h]
  rw [writeByte_env, h1, foldl_devices, List.map_map]
  generalize byteBits v = l
  rfl

/-- Every device takes part after a reset and the search command 0xF0. -/
theorem devices_after_searchCommand (ds : List Device) (w : Wire) (h : w.env = .devices ds) :
    (w.reset.2.writeByte 0xF0).env = .devices (ds.map (searching (fun _ => true) 1)) := by
  rw [devices_after_byte ds w 0xF0 h]
  simp only [device_after_searchCommand]
  rfl

/-- The bit read at a position: high iff every device still taking part has a 1 there. -/
theorem searching_readBit (ds : List Device) (alive : Device → Bool) (p : Nat) (hp : p ≤ 64) (tr : List BusEvent) :
    (BusEnv.devices (ds.map (searching alive p))).readLevel tr = ds.all (fun d => !alive d || romBit d.rom p) := by
  rw [devices_readLevel, List.all_map]
  congr 1
  funext d
  cases h : alive d <;> simp [searching, h, hp, Device.releases]

/-- The complement read after it: high iff every device still taking part has a 0 there. -/
theorem searching_readComplement (ds : List Device) (alive : Device → Bool) (p : Nat) (hp : p ≤ 64) (b : Bool)
    (tr : List BusEvent) :
    ((BusEnv.devices (ds.map (searching alive p))).after (.read b)).readLevel tr =
      ds.all (fun d => !alive d || !romBit d.rom p) := by
  rw [devices_after, devices_readLevel, List.map_map, List.all_map]
  congr 1
  funext d
  cases h : alive d <;> simp [searching, h, hp, Device.releases, Device.after, Device.onRead]

/-- After the direction is written the devices whose bit it is go on to the next position. -/
theorem searching_afterPosition (ds : List Device) (alive : Device → Bool) (p : Nat) (hp : p ≤ 64) (b cb d : Bool) :
    (((BusEnv.devices (ds.map (searching alive p))).after (.read b)).after (.read cb)).after (.write d) =
      .devices (ds.map (searching (fun v => alive v && (d == romBit v.rom p)) (p + 1))) := by
  simp only [devices_after, List.map_map]
  congr 2
  funext v
  cases h : alive v
  · simp [searching, h, Device.after]
  · by_cases hd : d = romBit v.rom p
    · by_cases h64 : p = 64
      · simp [searching, h, Device.after, Device.onRead, Device.onWrite, hd, h64]
      · simp [searching, h, hp, Device.after, Device.onRead, Device.onWrite, hd, h64, show p + 1 ≤ 64 by omega]
    · simp [searching, h, hp, Device.after, Device.onRead, Device.onWrite, hd]

end Sys2Proof.Machine
end

