-- ==== Sys2Proof/Laws/PerInstr.lean ====
section
/-!
SUPPORT. The statements made per command: the encoded word shows the command's opcode and operand byte in its two fields
(30_encoding.md R90-R92, R96).
-/

namespace Sys2Proof.Laws.EncodedFields

/-- The two fields of the assembled word. -/
def Statement (i : Instr) : Prop := opField (encode i) = opcode i ∧ operandField (encode i) = operandByte i

theorem fields (i : Instr) : Statement i := ⟨opField_encode i, operandField_encode i⟩

theorem nop : Statement .nop := fields _
theorem owReset : Statement .owReset := fields _
theorem owWriteBit (b : Bool) : Statement (.owWriteBit b) := fields _
theorem owReadBit : Statement .owReadBit := fields _
theorem owWriteByte (v : Byte) : Statement (.owWriteByte v) := fields _
theorem owReadByte : Statement .owReadByte := fields _
theorem crcClear : Statement .crcClear := fields _
theorem crcUpdate (v : Byte) : Statement (.crcUpdate v) := fields _
theorem searchFirst : Statement .searchFirst := fields _
theorem searchNext : Statement .searchNext := fields _
theorem discoverAll : Statement .discoverAll := fields _
theorem select (index : Nat) : Statement (.select index) := fields _
theorem startConversions : Statement .startConversions := fields _
theorem readAll : Statement .readAll := fields _
theorem updateMinmax : Statement .updateMinmax := fields _
theorem advanceClock : Statement .advanceClock := fields _
theorem hourRolled : Statement .hourRolled := fields _
theorem acquireCycle : Statement .acquireCycle := fields _
theorem outputUpdate : Statement .outputUpdate := fields _

end Sys2Proof.Laws.EncodedFields
end

