-- ==== Sys2Proof/Laws/Registers.lean ====
section
/-!
SUPPORT. The register map (20_memory.md R62, R68, R72, R73): where the windows lie, what a setpoint write stores, and how
two bytes of an address stand in a register.
-/

namespace Sys2Proof.Machine

/-- Every named register is found at its address (R62). -/
theorem locate_addr (r : RegName) : locate r.addr = .reg r := by cases r <;> rfl

/-- The DIR window (R72). -/
theorem locate_dirWindow (i : Fin 16) (k : Fin 4) :
    locate (0x40 + BitVec.ofNat 8 (4 * i.val + k.val)) = .dirWord i.val k.val := by
  revert i k; decide

set_option maxRecDepth 4000 in
/-- The HIST window (R73): the minimum of an offset. -/
theorem locate_histMin (ch : Fin 2) (off : Fin 24) :
    locate (0x80 + BitVec.ofNat 8 (48 * ch.val + 2 * off.val)) =
      .histWord (if ch = 0 then .s0 else .s1) off.val false := by
  revert ch off; decide

set_option maxRecDepth 4000 in
/-- The HIST window (R73): the maximum of an offset. -/
theorem locate_histMax (ch : Fin 2) (off : Fin 24) :
    locate (0x80 + BitVec.ofNat 8 (48 * ch.val + 2 * off.val + 1)) =
      .histWord (if ch = 0 then .s0 else .s1) off.val true := by
  revert ch off; decide

/-- A clamped setpoint is the clamp of R68: nothing is lost in its 8 bits. -/
theorem clampSetpoint_toInt (i : Fin 4) (x : Int) :
    (clampSetpoint i x).toInt = min (max x (setpointLow i)) 100 := by
  have h : -10 ≤ setpointLow i ∧ setpointLow i ≤ 0 := by unfold setpointLow; split <;> decide
  rw [clampSetpoint, BitVec.toInt_ofInt]
  exact Int.bmod_eq_of_le (by omega) (by omega)

/-- The value of two address bytes in a register (R71, R77). -/
theorem addressWord_toNat (r : Address) (k : Nat) :
    (addressWord r k).toNat = (r.getD (2 * k) 0).toNat + 256 * (r.getD (2 * k + 1) 0).toNat := by
  rw [addressWord, toNat_word, Nat.add_comm]

/-- The slot of an offset (R73). -/
theorem histSlotAt_eq (s : State) (off slot : Fin 24) (h : (slot.val + off.val) % 24 = s.histIdx.val) :
    histSlotAt s off.val = slot := by
  ext
  simp [histSlotAt, Fin.sub_def]
  omega

end Sys2Proof.Machine
end

