-- ==== Sys2Proof/Laws/Step.lean ====
section
/-!
SUPPORT. What a step is for each turn that can stand first in the schedule (20_memory.md R80), and how the invariants of
10_state.md R49 carry over to a state that differs in few fields.
-/

namespace Sys2Proof.Machine

theorem step_nil (s : State) (h : s.sched = []) : step s = engineTurn s := by
  rw [step, nextTurn, h]

theorem step_cons (s : State) (t : Turn) (rest : List Turn) (h : s.sched = t :: rest) :
    step s = takeTurn { s with sched := rest } t := by
  rw [step, nextTurn, h]

/-- A write of CMD runs the word's command (R65). -/
theorem memWrite_cmd (s : State) (v : Word) : memWrite s 0x00 v = writeCommand s v := rfl

/-- A write of any other register (R61). -/
theorem memWrite_other (s : State) (a : Byte) (v : Word) (h : a ≠ 0x00) : memWrite s a v = .next (writeRegister s a v) :=
  if_neg h

/-- Everything a turn can do: a command word runs its command, an enabled automatic cycle runs ACQUIRE_CYCLE, power-on
resets, and any other turn writes only the host's registers, TICKS, ERR and RESULT, the read data and the environment. -/
theorem takeTurn_cases (s t : State) (turn : Turn) (h : takeTurn s turn = .next t) :
    (∃ w i, turn = .hostWrite 0x00 w ∧ decode w = .command i ∧ exec i { s with lastCmd := w } = .next t) ∨
    (turn = .autoCycle ∧ s.auto = true ∧ s.ticks ≠ 0 ∧ exec .acquireCycle { s with ticks := 0 } = .next t) ∨
    (turn = .powerOn ∧ t = s.powerCycle) ∨
    t = { s with
      wire := { s.wire with env := t.wire.env }
      sp := t.sp
      spLoaded := t.spLoaded
      auto := t.auto
      ticks := t.ticks
      err := t.err
      result := t.result
      lastCmd := t.lastCmd
      readData := t.readData } := by
  cases turn with
  | hostRead a => cases h; exact .inr (.inr (.inr rfl))
  | tick => cases h; exact .inr (.inr (.inr rfl))
  | busChange e => cases h; exact .inr (.inr (.inr rfl))
  | powerOn => cases h; exact .inr (.inr (.inl ⟨rfl, rfl⟩))
  | autoCycle =>
    change engineTurn s = _ at h
    unfold engineTurn at h
    by_cases ha : s.autoEnabled = true
    · rw [if_pos ha] at h
      have hb : s.auto = true ∧ s.ticks ≠ 0 := by simpa [State.autoEnabled] using ha
      exact .inr (.inl ⟨rfl, hb.1, hb.2, h⟩)
    · rw [if_neg ha] at h
      cases h
      exact .inr (.inr (.inr rfl))
  | hostWrite a v =>
    change memWrite s a v = _ at h
    by_cases ha : a = 0x00
    · subst ha
      rw [memWrite_cmd, writeCommand] at h
      cases hd : decode v with
      | command i => rw [hd] at h; exact .inl ⟨v, i, rfl, hd, h⟩
      | illegalCommand => rw [hd] at h; cases h; exact .inr (.inr (.inr rfl))
      | badOperand => rw [hd] at h; cases h; exact .inr (.inr (.inr rfl))
    · rw [memWrite_other s a v ha] at h
      cases h
      refine .inr (.inr (.inr ?_))
      unfold writeRegister
      split <;> rfl

/-- The model's placement of a command word (log 10): the very next step runs it. -/
theorem step_withFetchWord (s : State) (w : Word) :
    step (s.withFetchWord 16 w.toNat) = writeCommand s w := by
  have h : BitVec.ofNat 16 (w.toNat % 2 ^ 16) = w := by
    apply BitVec.eq_of_toNat_eq
    simpa using w.isLt
  unfold State.withFetchWord State.placeCommand
  rw [h]
  rfl

/-- A state with the same build, directory and setpoints as one that meets the invariants meets them if its own search
state, clock, readings and line do. -/
theorem inv_of_unchanged (s t : State) (h : s.Inv) (hb : t.build = s.build) (hd : t.dir = s.dir)
    (hc : t.dirCount = s.dirCount) (hsp : t.sp = s.sp) (hl : t.spLoaded = s.spLoaded)
    (ld : t.ld ≤ 64) (ldf : t.ldf = true → t.ld = 0) (hoursSeen : t.hoursSeen ≤ 23) (hour : t.hour ≤ 23)
    (sec : t.sec ≤ 59) (minute : t.minute ≤ 59) (leap : t.leap ≤ s.build.leapPeriod - 1)
    (cause0 : t.sensor.s0.CauseAgrees) (cause1 : t.sensor.s1.CauseAgrees) (line : t.wire.drv = false) : t.Inv where
  build := hb ▸ h.build
  ld := ld
  ldf := ldf
  dirSize := by rw [hd, hb]; exact h.dirSize
  dirCount := by rw [hc, hb]; exact h.dirCount
  dirEmpty := by
    intro i hi
    have := h.dirEmpty i (hc ▸ hi)
    simpa [State.dirEntry, hd] using this
  hoursSeen := hoursSeen
  hour := hour
  sec := sec
  minute := minute
  leap := hb ▸ leap
  setpoints := by
    intro i
    have := h.setpoints i
    simpa [State.SetpointInRange, hsp, hl] using this
  cause0 := cause0
  cause1 := cause1
  line := line

end Sys2Proof.Machine
end

