-- ==== Sys2Proof/Tests/Slice0.lean ====
section
/-!
SUPPORT. The model's own tests. Expected values are those of spec/95_test_vectors.md (named V-.. in the comments), of the
examples in the rules, or worked out by hand from the encoding tables. After them, one witness for every obligation that
has hypotheses: states and operands that meet them together.
-/

namespace Sys2Proof.Tests

open Sys2Proof.Machine

set_option Elab.async false

/-! ### Small states -/

/-- DIR_CAP = 2, N1 = 3, N2 = 5. -/
def smallBuild : Build := { dirCap := 2, n1 := 3, n2 := 5 }

/-- A block just powered on, on a given bus. -/
def onBus (b : Build) (e : BusEnv) : State :=
  { State.powerOn b with wire := { drv := false, env := e, trace := [] } }

/-- The devices of 95_test_vectors.md. -/
def deviceA : Device := Device.fresh #v[0x10, 0x01, 0, 0, 0, 0, 0, 0xCC] []
def deviceB : Device := Device.fresh #v[0x20, 0x02, 0, 0, 0, 0, 0, 0x81] []

/-- The four setpoints written (R68): 10, 5, 50, 20 as in V-O1. -/
def loaded (s : State) : State := writeSetpoint (writeSetpoint (writeSetpoint (writeSetpoint s 0 10) 1 5) 2 50) 3 20

/-- Both channels valid at the given temperatures. -/
def reading (t0 t1 : Word) (s : State) : State :=
  { s with sensor := { s0 := { s.sensor.s0 with temp := t0, valid := true, cause := .ok }
                       s1 := { s.sensor.s1 with temp := t1, valid := true, cause := .ok } } }

/-- A block at the given time of its uptime clock. -/
def atClock (sec minute hour leap : Nat) : State :=
  { State.powerOn smallBuild with sec := sec, minute := minute, hour := hour, leap := leap }

/-- The outcome is a next state with the property `p`. -/
def completes (o : Host.Outcome State Fault Refusal) (p : State → Bool) : Bool :=
  match o with
  | .next t => p t
  | .fault _ => false
  | .refused _ => false

/-- ERR and RESULT. -/
def ends (e : Err) (r : Word) (t : State) : Bool := decide (t.err = e ∧ t.result = r)

/-! ### Well-formedness -/

/-- R90, R91: an index that does not fit the operand byte cannot be encoded; the largest that fits can. -/
theorem test_wellFormed_refuses_select_256 : ¬(Instr.select 256).WellFormed := by decide
theorem test_wellFormed_accepts_select_255 : (Instr.select 255).WellFormed := by decide

/-! ### Decoding: one word per command, written out from the table of R92 (operand byte, then opcode) -/

theorem test_decode_nop : decode 0b00000000_00000000#16 = .command .nop := by decide
theorem test_decode_owReset : decode 0b00000000_00000001#16 = .command .owReset := by decide
theorem test_decode_owWriteBit : decode 0b00000001_00000010#16 = .command (.owWriteBit true) := by decide
theorem test_decode_owReadBit : decode 0b00000000_00000011#16 = .command .owReadBit := by decide
theorem test_decode_owWriteByte : decode 0b11001100_00000100#16 = .command (.owWriteByte 0xCC) := by decide
theorem test_decode_owReadByte : decode 0b00000000_00000101#16 = .command .owReadByte := by decide
theorem test_decode_crcClear : decode 0b00000000_00000110#16 = .command .crcClear := by decide
theorem test_decode_crcUpdate : decode 0b01110000_00000111#16 = .command (.crcUpdate 0x70) := by decide
theorem test_decode_searchFirst : decode 0b00000000_00001000#16 = .command .searchFirst := by decide
theorem test_decode_searchNext : decode 0b00000000_00001001#16 = .command .searchNext := by decide
theorem test_decode_discoverAll : decode 0b00000000_00001010#16 = .command .discoverAll := by decide
theorem test_decode_select : decode 0b00000001_00001011#16 = .command (.select 1) := by decide
theorem test_decode_startConversions : decode 0b00000000_00010000#16 = .command .startConversions := by decide
theorem test_decode_readAll : decode 0b00000000_00010001#16 = .command .readAll := by decide
theorem test_decode_updateMinmax : decode 0b00000000_00010010#16 = .command .updateMinmax := by decide
theorem test_decode_advanceClock : decode 0b00000000_00010011#16 = .command .advanceClock := by decide
theorem test_decode_hourRolled : decode 0b00000000_00010100#16 = .command .hourRolled := by decide
theorem test_decode_acquireCycle : decode 0b00000000_00010101#16 = .command .acquireCycle := by decide
theorem test_decode_outputUpdate : decode 0b00000000_00011000#16 = .command .outputUpdate := by decide

/-- Section 3.1: an operand a class forbids; the illegal opcode is reported, not the operand. -/
theorem test_decode_badOperand : decode 0x0202 = .badOperand ∧ decode 0x0118 = .badOperand := by decide
theorem test_decode_illegal : decode 0x000C = .illegalCommand ∧ decode 0x0C0C = .illegalCommand := by decide

/-- Section 3.1, assembly examples. -/
theorem test_assemble :
    assemble smallBuild "OW_WRITE_BYTE" (some .cmdSkip) = some 0xCC04 ∧
    assemble smallBuild "SELECT" (some (.number 1)) = some 0x010B ∧
    assemble smallBuild "ACQUIRE_CYCLE" none = some 0x0015 := by decide

/-! ### Each command, one step -/

/-- R240. -/
theorem test_nop : completes (exec .nop { State.reset with err := .busTimeout, result := 7 }) (ends .ok 0) = true := by
  decide

/-- V-B1 and V-B2. -/
theorem test_owReset_device :
    completes (exec .owReset (onBus smallBuild (.devices [deviceA])))
      (fun t => ends .ok 1 t && decide (memRead t 0x01 = 0x0010)) = true := by decide
theorem test_owReset_empty :
    completes (exec .owReset (onBus smallBuild (.devices [])))
      (fun t => ends .busTimeout 0 t && decide (memRead t 0x01 = 0x0001)) = true := by decide

/-- V-B12. -/
theorem test_owWriteBit :
    completes (exec (.owWriteBit true) State.reset) (fun t => decide (t.wire.trace = [.write true])) = true := by decide

/-- V-B5: an empty bus reads 1. -/
theorem test_owReadBit : completes (exec .owReadBit (onBus smallBuild (.devices []))) (ends .ok 1) = true := by decide

/-- V-B4: 0xCC goes out least significant bit first (oldest event last in the trace). -/
theorem test_owWriteByte :
    completes (exec (.owWriteByte 0xCC) State.reset)
      (fun t => decide (t.wire.trace.reverse = [.write false, .write false, .write true, .write true,
        .write false, .write false, .write true, .write true])) = true := by decide

/-- V-B7 and V-B6. -/
theorem test_owReadByte :
    completes (exec .owReadByte (onBus smallBuild (.script [true, false, false, false, true, false, false, true])))
      (ends .ok 0x0091) = true := by decide
theorem test_owReadByte_empty :
    completes (exec .owReadByte (onBus smallBuild (.devices []))) (ends .ok 0x00FF) = true := by decide

/-- V-B9. -/
theorem test_crcClear :
    completes (exec .crcClear { State.reset with crc := 0x45 }) (fun t => ends .ok 0 t && decide (t.crc = 0)) = true := by
  decide

/-- V-B10 and V-B11. -/
theorem test_crcUpdate : completes (exec (.crcUpdate 0x01) State.reset) (ends .ok 0x007A) = true := by decide
theorem test_crcUpdate_residue :
    completes (exec (.crcUpdate 0x5E) { State.reset with crc := 0x7A }) (ends .ok 0x0000) = true := by decide

/-- V-S2 row 1: device A alone. -/
theorem test_searchFirst :
    completes (exec .searchFirst (onBus smallBuild (.devices [deviceA])))
      (fun t => ends .ok 1 t && decide (memRead t 0x05 = 0x0100 ∧ t.rom = deviceA.rom ∧ t.wire.trace.length = 201)) =
        true := by
  decide +kernel

/-- V-S1 row 1: B comes before A, and LD = 5. -/
theorem test_searchFirst_two :
    completes (exec .searchFirst (onBus smallBuild (.devices [deviceA, deviceB])))
      (fun t => ends .ok 1 t && decide (memRead t 0x05 = 0x0005 ∧ t.rom = deviceB.rom)) = true := by
  decide +kernel

/-- V-S1 row 2, from the search state its row 1 leaves. -/
theorem test_searchNext :
    completes (exec .searchNext { onBus smallBuild (.devices [deviceA, deviceB]) with
        rom := deviceB.rom, ld := 5, found := true })
      (fun t => ends .ok 1 t && decide (memRead t 0x05 = 0x0100 ∧ t.rom = deviceA.rom)) = true := by
  decide +kernel

/-- V-S5: `(1, 1)` at position 1. -/
theorem test_searchNext_noDevice :
    completes (exec .searchNext { onBus smallBuild (.script [false, true, true]) with rom := deviceB.rom, ld := 5 })
      (fun t => ends .searchNoDevice 0 t && decide (t.rom = deviceB.rom ∧ t.ld = 0 ∧ t.wire.trace.length = 11)) =
        true := by
  decide

/-- Section 3.3: two devices, in order, in a directory of two; V-S6: the stuck line. -/
theorem test_discoverAll :
    completes (exec .discoverAll (onBus smallBuild (.devices [deviceA, deviceB])))
      (fun t => ends .ok 2 t && decide (t.dir = [deviceB.rom, deviceA.rom])) = true := by
  decide +kernel
theorem test_discoverAll_held :
    completes (exec .discoverAll (onBus smallBuild .held))
      (fun t => ends .checksumMismatch 1 t && decide (t.crc = 0x31)) = true := by
  decide +kernel

/-- Section 3.4: the trace of a select is 73 events; an index out of range has none. -/
theorem test_select :
    completes (exec (.select 1) { onBus smallBuild (.devices [deviceA]) with dirCount := 2, dir := [deviceB.rom, deviceA.rom] })
      (fun t => ends .ok 1 t && decide (t.wire.trace.length = 73)) = true := by decide
theorem test_select_badIndex :
    completes (exec (.select 2) { onBus smallBuild (.devices [deviceA]) with dirCount := 2 })
      (fun t => ends .badIndex 0 t && decide (t.wire.trace = [])) = true := by decide

/-- R172 and its table in section 3.5. -/
theorem test_startConversions :
    completes (exec .startConversions { onBus smallBuild (.devices [deviceA]) with dirCount := 1 })
      (fun t => ends .ok 1 t && decide (t.wire.trace.length = 17)) = true := by decide
theorem test_startConversions_noDirectory :
    completes (exec .startConversions (onBus smallBuild (.devices [deviceA])))
      (fun t => ends .ok 1 t && decide (t.wire.trace = [.reset true])) = true := by decide

/-- V-R1: one device answers with 91 01 4B 46 7F FF 0C 10 70. -/
def scratchAnswers : List Bool :=
  false :: [0x91, 0x01, 0x4B, 0x46, 0x7F, 0xFF, 0x0C, 0x10, 0x70].flatMap byteBits
theorem test_readAll :
    completes (exec .readAll { onBus smallBuild (.script scratchAnswers) with dirCount := 1, dir := [deviceA.rom] })
      (fun t => ends .invalidReading 1 t &&
        decide (memRead t 0x12 = 0x4001 ∧ t.sensor.s0.temp = 0x00FA ∧ t.crc = 0)) = true := by
  decide +kernel

/-- V-R6: no directory, no bus activity. -/
theorem test_readAll_noDirectory :
    completes (exec .readAll (onBus smallBuild (.devices [deviceA])))
      (fun t => ends .invalidReading 0 t && decide (memRead t 0x12 = 0x4400 ∧ t.wire.trace = [])) = true := by decide

/-- Section 3.5, conversion vectors: 0xFE6F in both roundings. -/
theorem test_convert : convert .towardZero 0xFE6F = 0xFF06 ∧ (convert .floor 0xFE6F).toInt = -251 := by decide

/-- R175 and its table: a sentinel slot takes the reading on both sides; an invalid channel is skipped. -/
theorem test_updateMinmax :
    completes (exec .updateMinmax
        { reading 250 0 State.reset with sensor := { s0 := (reading 250 0 State.reset).sensor.s0, s1 := SensorChan.powerOn } })
      (fun t => decide (t.sensor.s0.hist[0] = { lo := 250, hi := 250 } ∧ t.sensor.s1.hist[0] = HistSlot.empty)) = true := by
  decide

/-- Section 3.5: the leap step from 58, and the roll of the day. -/
theorem test_advanceClock_leap :
    completes (exec .advanceClock (atClock 58 0 0 2))
      (fun t => ends .ok 0 t && decide (t.sec = 0 ∧ t.minute = 1 ∧ t.leap = 0)) = true := by decide
theorem test_advanceClock_day :
    completes (exec .advanceClock (atClock 58 59 23 2))
      (fun t => ends .ok 1 t && decide (t.sec = 0 ∧ t.minute = 0 ∧ t.hour = 0)) = true := by decide

/-- Section 3.5: the index wraps from 23 to 0 and HOURS_SEEN stays at 23. -/
theorem test_hourRolled :
    completes (exec .hourRolled { State.reset with histIdx := 23, hoursSeen := 23 })
      (fun t => ends .ok 0 t && decide (t.histIdx = 0 ∧ t.hoursSeen = 23 ∧ t.sensor.s1.hist[0] = HistSlot.empty)) =
        true := by
  decide

/-- R180 with no device on the bus: BUS_TIMEOUT, both channels invalid, the clock runs all the same. -/
theorem test_acquireCycle_empty :
    completes (exec .acquireCycle (loaded (onBus smallBuild (.devices []))))
      (fun t => ends .busTimeout 0 t && decide (memRead t 0x12 = 0x1100 ∧ t.sec = 1)) = true := by decide

/-- R180, R210: with a setpoint missing the cycle faults. -/
theorem test_acquireCycle_unloaded : exec .acquireCycle State.reset = .fault .setpointBeforeLoad := rfl

/-- V-O6 step 6: the third equal step commits stage 1. -/
theorem test_outputUpdate :
    completes (exec .outputUpdate { reading 120 120 (loaded (State.powerOn smallBuild)) with
        out := { c1 := { cur := true, cnt := 1, st1 := false, st2 := false },
                 c2 := { cur := false, cnt := 5, st1 := false, st2 := false } } })
      (fun t => ends .ok 0x0011 t && decide (memRead t 0x19 = 0x0602)) = true := by decide

/-- V-O7 step 2: ST2[1] forces channel 2 on in the same step. -/
theorem test_outputUpdate_coupling :
    completes (exec .outputUpdate { reading 120 120 (loaded (State.powerOn { dirCap := 2, n1 := 1, n2 := 2 })) with
        out := { c1 := { cur := true, cnt := 0, st1 := true, st2 := false },
                 c2 := { cur := false, cnt := 1, st1 := false, st2 := false } } })
      (fun t => ends .ok 0x0037 t && decide (memRead t 0x19 = 0x0001)) = true := by decide

/-! ### Registers -/

/-- Section 3.7: clamps at both ends of both ranges. -/
theorem test_setpoint_clamp :
    memRead (writeRegister State.reset 0x14 0x8000) 0x14 = 0xFFF6 ∧
    memRead (writeRegister State.reset 0x14 0x0096) 0x14 = 0x0064 ∧
    memRead (writeRegister State.reset 0x16 0xFFFB) 0x16 = 0x0000 := by decide

/-- V-S1 row 1: the ROM registers hold the lower-numbered byte in bits 7:0. -/
theorem test_rom_registers :
    memRead { State.reset with rom := deviceB.rom } 0x06 = 0x0220 ∧
    memRead { State.reset with rom := deviceB.rom } 0x09 = 0x8100 := by decide

/-! ### The step -/

/-- A command word placed for the next step runs from reset (log 10). -/
theorem test_step_withFetchWord :
    completes (step (State.reset.withFetchWord 16 0x0107)) (fun t => ends .ok 0x007A t && decide (t.lastCmd = 0x0107)) =
      true := by decide

/-! ### Witnesses: states and operands that meet the hypotheses of the obligations -/

/-- An outcome is a next state. -/
def isNext (o : Host.Outcome State Fault Refusal) : Bool := completes o (fun _ => true)

/-- `DecodeOfEncode`: the largest operand of each class. -/
theorem witness_DecodeOfEncode :
    (Instr.select 255).WellFormed ∧ (Instr.select 0).WellFormed ∧ (Instr.owWriteByte 0xFF).WellFormed := by decide

/-- `EncodeOfDecode`. -/
theorem witness_EncodeOfDecode : decode 0xFF0B = .command (.select 255) := by decide

/-- `IllegalOpcodesOnlySetErr`: both ends of every range of R93. -/
theorem witness_IllegalOpcodesOnlySetErr :
    illegalOpcode (BitVec.toNat 0x000C#16 % 256) = true ∧ illegalOpcode (BitVec.toNat 0x000F#16 % 256) = true ∧
    illegalOpcode (BitVec.toNat 0x0016#16 % 256) = true ∧ illegalOpcode (BitVec.toNat 0x0017#16 % 256) = true ∧
    illegalOpcode (BitVec.toNat 0x0019#16 % 256) = true ∧ illegalOpcode (BitVec.toNat 0xFFFF#16 % 256) = true :=
  ⟨rfl, rfl, rfl, rfl, rfl, rfl⟩

/-- `BadOperandsOnlySetErr`: both alternatives, at the least bad operand. -/
theorem witness_BadOperandsOnlySetErr :
    (BitVec.toNat 0x0100#16 % 256 ∈ classNOpcodes ∧ BitVec.toNat 0x0100#16 / 256 ≠ 0) ∧
    (BitVec.toNat 0x0202#16 % 256 = 0x02 ∧ 2 ≤ BitVec.toNat 0x0202#16 / 256) := by decide

/-- `StepExecutesTheWrittenCommand`: a schedule for each kind of word, and a register that is not CMD. -/
theorem witness_StepExecutesTheWrittenCommand :
    (State.placeCommand State.reset 0x0006).sched = .hostWrite 0x00 0x0006 :: [] ∧ decode 0x0006 = .command .crcClear ∧
    decode 0x00FF = .illegalCommand ∧ decode 0x0106 = .badOperand ∧
    memWrite State.reset 0x03 1 = .next { State.reset with auto := true } := by
  exact ⟨rfl, rfl, rfl, rfl, rfl⟩

/-- `HostReadsHaveNoSideEffect`, `TickSaturates`, `PowerOnResetsTheBlockOnly`: schedules that begin with their turn. -/
theorem witness_turns :
    ({ State.reset with sched := [.hostRead 0xFF] } : State).sched = .hostRead 0xFF :: [] ∧
    ({ State.reset with sched := [.tick], ticks := 255 } : State).sched = .tick :: [] ∧
    ({ State.reset with sched := [.powerOn, .tick] } : State).sched = .powerOn :: [.tick] := ⟨rfl, rfl, rfl⟩

/-- `AutomaticCycle`, first clause: enabled with the least and the greatest TICKS; second clause: AUTO = 0, or TICKS = 0. -/
theorem witness_AutomaticCycle :
    (∀ n ∈ [(1 : Byte), 255],
      let s : State := { loaded State.reset with auto := true, ticks := n, sched := [.autoCycle] }
      s.sched = .autoCycle :: [] ∧ s.auto = true ∧ s.ticks ≠ 0 ∧ s.setpointsLoaded = true) ∧
    ({ State.reset with ticks := 255, sched := [.autoCycle] } : State).auto = false ∧
    ({ State.reset with auto := true, sched := [.autoCycle] } : State).ticks = 0 := by decide

/-- `NoBusActivityBetweenCommands`: a register write, a tick, and an engine turn that is not enabled. -/
theorem witness_NoBusActivityBetweenCommands :
    isNext (takeTurn State.reset (.hostWrite 0x14 5)) = true ∧ (∀ v, Turn.hostWrite 0x14 5 ≠ .hostWrite 0x00 v) ∧
    isNext (takeTurn State.reset .tick) = true ∧
    isNext (takeTurn { State.reset with auto := true } .autoCycle) = true ∧
    ({ State.reset with auto := true } : State).ticks = 0 := by
  refine ⟨by decide, ?_, by decide, by decide, rfl⟩
  intro v h
  cases h

/-- A state at the upper ends of the ranges of R49. -/
def edge (sec minute hour leap : Nat) : State :=
  { loaded (State.powerOn smallBuild) with
    ld := 64, hoursSeen := 23, sec := sec, minute := minute, hour := hour, leap := leap, sched := [.tick] }

/-- The invariants hold at the upper ends of their ranges. -/
theorem edge_inv (sec minute hour leap : Nat) (h1 : sec ≤ 59) (h2 : minute ≤ 59) (h3 : hour ≤ 23) (h4 : leap ≤ 2) :
    (edge sec minute hour leap).Inv where
  build := by show smallBuild.Valid; decide
  ld := by show 64 ≤ 64; decide
  ldf := by intro h; cases h
  dirSize := rfl
  dirCount := by show 0 ≤ 2; decide
  dirEmpty := by
    intro i _
    match i with
    | 0 => rfl
    | 1 => rfl
    | _ + 2 => rfl
  hoursSeen := by show 23 ≤ 23; decide
  hour := h3
  sec := h1
  minute := h2
  leap := h4
  setpoints := by
    intro i
    have key : ∀ i : Fin 4, (loaded (State.powerOn smallBuild)).SetpointInRange i := by decide
    exact key i
  cause0 := by show (SensorChan.powerOn).CauseAgrees; decide
  cause1 := by show (SensorChan.powerOn).CauseAgrees; decide
  line := rfl

/-- `StepKeepsInv`, `StepKeepsBuild`: a state with the invariants that has a next state. -/
theorem witness_StepKeepsInv :
    (edge 59 59 23 2).Inv ∧ ∃ t, step (edge 59 59 23 2) = .next t :=
  ⟨edge_inv 59 59 23 2 (by decide) (by decide) (by decide) (by decide), _, rfl⟩

/-- `PowerOnHasInv`, `DiscoverAllFillsTheDirectory`: builds at both ends of the ranges of R6. -/
theorem witness_Build_Valid :
    ({ dirCap := 1, n1 := 1, n2 := 1, leapPeriod := 1 } : Build).Valid ∧
    ({ dirCap := 16, n1 := 256, n2 := 256, leapPeriod := 1000 } : Build).Valid := by decide

/-- `OnlySearchChangesSearchState`, `OnlyDiscoveryChangesDirectory`, `CommandsNeverWriteHostRegisters`,
`PinsChangeOnlyInOutputStep`, `CommandsWriteTheirErrorCodes`: a command that is none of the exceptions. -/
theorem witness_commands :
    (∃ t, exec .startConversions State.reset = .next t) ∧ Instr.startConversions ≠ .searchFirst ∧
    Instr.startConversions ≠ .searchNext ∧ Instr.startConversions ≠ .discoverAll ∧
    Instr.startConversions ≠ .outputUpdate ∧ Instr.startConversions ≠ .acquireCycle :=
  ⟨⟨_, rfl⟩, by decide, by decide, by decide, by decide, by decide⟩

/-- `OnlySearchChangesSearchState`, `PinsChangeOnlyInOutputStep`, over turns: a tick, a command word and an engine turn
that is not enabled run none of the excepted commands. -/
theorem witness_turns_run_no_exception :
    ∀ i ∈ [Instr.searchFirst, .searchNext, .discoverAll, .outputUpdate, .acquireCycle],
      ¬RunsCommand State.reset .tick i ∧ ¬RunsCommand State.reset (.hostWrite 0x00 0x0010) i ∧
      ¬RunsCommand State.reset .autoCycle i := by
  intro i hi
  refine ⟨?_, ?_, ?_⟩
  · rintro (⟨w, h, -⟩ | ⟨-, h, -⟩) <;> cases h
  · rintro (⟨w, h, hd⟩ | ⟨-, h, -⟩)
    · cases h
      have : i = .startConversions := by
        have e : decode 0x0010 = .command .startConversions := by decide
        rw [e] at hd
        cases hd
        rfl
      subst this
      exact absurd hi (by decide)
    · cases h
  · rintro (⟨w, h, -⟩ | ⟨-, -, h, -⟩) <;> cases h
theorem witness_turns_complete :
    isNext (takeTurn State.reset .tick) = true ∧ isNext (takeTurn State.reset (.hostWrite 0x00 0x0010)) = true ∧
    isNext (takeTurn State.reset .autoCycle) = true ∧ Turn.tick ≠ .powerOn ∧ Turn.hostWrite 0x00 0x0010 ≠ .powerOn ∧
    Turn.autoCycle ≠ .powerOn := by decide

/-- `UnloadedSetpointsFault`: only the first, and only the last setpoint missing. -/
theorem witness_UnloadedSetpointsFault :
    ({ State.reset with spLoaded := #v[false, true, true, true] } : State).spLoaded[(0 : Fin 4)] = false ∧
    ({ State.reset with spLoaded := #v[true, true, true, false] } : State).spLoaded[(3 : Fin 4)] = false := by decide

/-- `ReservedAddressesReadZero`: both ends of every range. -/
theorem witness_ReservedAddressesReadZero :
    ∀ a ∈ [0x0C, 0x0F, 0x13, 0x20, 0x3F, 0xE0, 0xFF], reservedAddress (BitVec.toNat (w := 8) a) = true := by decide

/-- `ReadOnlyRegistersIgnoreWrites`: read-only addresses at the ends of the windows. -/
theorem witness_ReadOnlyRegistersIgnoreWrites : ∀ a ∈ [0x01, 0x1F, 0x40, 0x7F, 0x80, 0xDF], a ∉ writableAddresses := by
  decide

/-- `SetpointRegistersClamp`: a loaded and an unloaded setpoint of each channel. -/
theorem witness_SetpointRegistersClamp :
    (∀ i : Fin 4, (loaded State.reset).spLoaded[i] = true) ∧ (∀ i : Fin 4, State.reset.spLoaded[i] = false) := by decide

/-- `PackedRegistersShowTheirFields`, `DirWindowShowsTheDirectory`: an entry inside the array, the first beyond DIRCOUNT
and the last of the window. -/
theorem witness_DirWindowShowsTheDirectory :
    (edge 59 59 23 2).Inv ∧ 1 < (edge 59 59 23 2).build.dirCap ∧ (edge 59 59 23 2).dirCount ≤ 0 ∧
    (edge 59 59 23 2).dirCount ≤ 15 :=
  ⟨edge_inv 59 59 23 2 (by decide) (by decide) (by decide) (by decide), by decide, by decide, by decide⟩

/-- `HistWindowIsOffsetRelative`: the current slot, and an offset that wraps. -/
theorem witness_HistWindowIsOffsetRelative :
    ((0 : Fin 24).val + (0 : Fin 24).val) % 24 = State.reset.histIdx.val ∧
    ((1 : Fin 24).val + (23 : Fin 24).val) % 24 = State.reset.histIdx.val := by decide

/-- `ReadCommandsReturnTheBitsRead`: the empty bus. -/
theorem witness_ReadCommandsReturnTheBitsRead : (onBus smallBuild (.devices [])).wire.env = .devices [] := rfl

/-- `CrcCheckProgram`: the shortest message, and V-B11's. -/
theorem witness_CrcCheckProgram :
    ({ State.reset with sched := (Pseudo.crcCheck ([] ++ [0])).expand State.reset.build } : State).sched =
      (Pseudo.crcCheck ([] ++ [0])).expand Config.build ∧
    ({ State.reset with sched := (Pseudo.crcCheck ([0x01] ++ [0x5E])).expand State.reset.build } : State).sched =
      (Pseudo.crcCheck ([0x01] ++ [0x5E])).expand Config.build := ⟨rfl, rfl⟩

/-- `FailedPassResetsSearchState`: one state for each of its four errors. -/
theorem witness_FailedPassResetsSearchState :
    completes (exec (searchCommand true) (onBus smallBuild (.devices []))) (ends .busTimeout 0) = true ∧
    completes (exec (searchCommand false) { State.reset with ldf := true }) (ends .searchExhausted 0) = true ∧
    completes (exec (searchCommand true) (onBus smallBuild (.script [false, true, true]))) (ends .searchNoDevice 0) =
      true := by decide
theorem witness_FailedPass_checksum :
    completes (exec (searchCommand false) { onBus smallBuild .held with ld := 64 }) (ends .checksumMismatch 0) = true := by
  decide +kernel

/-- `ExhaustedSearchStartsOver`. -/
theorem witness_ExhaustedSearchStartsOver : ({ State.reset with ldf := true } : State).ldf = true := rfl

/-- `SuccessfulPassFollowsTheTree`: a pass with a zero choice (LD = 5), and one that replays it (LD = 0). -/
theorem witness_SuccessfulPassFollowsTheTree :
    completes (exec (searchCommand true) (onBus smallBuild (.devices [deviceA, deviceB])))
      (fun t => decide (t.err = .ok ∧ t.ld = 5)) = true ∧
    completes (exec (searchCommand false) { onBus smallBuild (.devices [deviceA, deviceB]) with rom := deviceB.rom, ld := 5 })
      (fun t => decide (t.err = .ok ∧ t.ld = 0)) = true := by
  decide +kernel

/-- `HeldLineReadsAsZeros`: the least capacity of its second clause. -/
theorem witness_HeldLineReadsAsZeros :
    (onBus smallBuild .held).wire.env = .held ∧ 2 ≤ (onBus smallBuild .held).build.dirCap := ⟨rfl, by decide⟩

/-- `SingleDeviceIsFound`, in both register forms of the CRC. -/
theorem witness_SingleDeviceIsFound :
    (onBus smallBuild (.devices [deviceA])).wire.env = .devices [deviceA] ∧ smallBuild.cmdSearch = 0xF0 ∧
    AddressChecks .msb31 deviceA.rom ∧ AddressChecks .lsb8c deviceA.rom :=
  ⟨rfl, rfl, by unfold AddressChecks; decide +kernel, by unfold AddressChecks; decide +kernel⟩

/-- `TwoDevicesAreEnumerated`: devices B and A of the vectors, in either order on the bus. -/
theorem witness_TwoDevicesAreEnumerated :
    (onBus smallBuild (.devices [deviceB, deviceA])).wire.env = .devices [deviceB, deviceA] ∧
    (onBus smallBuild (.devices [deviceA, deviceB])).wire.env = .devices [deviceA, deviceB] ∧
    smallBuild.cmdSearch = 0xF0 ∧ AddressChecks .msb31 deviceB.rom ∧ AddressChecks .msb31 deviceA.rom ∧
    ComesBefore deviceB.rom deviceA.rom := by
  refine ⟨rfl, rfl, rfl, by unfold AddressChecks; decide +kernel, by unfold AddressChecks; decide +kernel, 5, by decide, by decide, by decide, by decide, ?_⟩
  intro q h1 h2
  have key : ∀ q : Fin 5, romBit deviceB.rom q.val = romBit deviceA.rom q.val := by decide
  exact key ⟨q, h2⟩

/-- `DiscoverAllFillsTheDirectory`: two passes of which the second finds the last device; a directory of one entry that a
second device does not fit; one device; a failing first pass; a failing second pass. -/
theorem witness_DiscoverAllFillsTheDirectory :
    ({ smallBuild with dirCap := 1 } : Build).Valid ∧
    completes (exec .discoverAll (onBus { smallBuild with dirCap := 1 } (.devices [deviceA, deviceB])))
      (ends .directoryFull 1) = true ∧
    completes (exec .discoverAll (onBus smallBuild (.devices [deviceA]))) (ends .ok 1) = true ∧
    completes (exec .discoverAll (onBus smallBuild (.devices []))) (ends .busTimeout 0) = true ∧
    completes (exec .discoverAll (onBus smallBuild (.devices [deviceA, deviceB]))) (ends .ok 2) = true ∧
    completes (exec .discoverAll (onBus smallBuild .held)) (ends .checksumMismatch 1) = true := by
  decide +kernel

/-- `SelectAddressesOneDevice`: the first index out of range, and the last in range with and without presence. -/
theorem witness_SelectAddressesOneDevice :
    (let s : State := { onBus smallBuild (.devices [deviceA]) with dirCount := 1, dir := [deviceA.rom] }
     s.dirCount ≤ 1 ∧ 0 < s.dirCount ∧ completes (exec (.select 0) s) (fun t => t.presence) = true) ∧
    completes (exec (.select 0) { onBus smallBuild (.devices []) with dirCount := 1 }) (fun t => !t.presence) = true := by
  decide

/-- `StartConversionsBroadcasts`: presence with one directory entry, presence with none, and no presence. -/
theorem witness_StartConversionsBroadcasts :
    (onBus smallBuild (.devices [deviceA])).wire.env.presenceLevel [] = false ∧
    0 < ({ onBus smallBuild (.devices [deviceA]) with dirCount := 1 } : State).dirCount ∧
    (onBus smallBuild (.devices [deviceA])).dirCount = 0 ∧
    (onBus smallBuild (.devices [])).wire.env.presenceLevel [] = true := by decide

/-- `ReadAllJudgesBothChannels`: no directory; one entry, so channel 0 has a slot and channel 1 has none; and both causes
of ERR. -/
theorem witness_ReadAllJudgesBothChannels :
    State.reset.dirCount = 0 ∧ Sensor.s0.slot < 1 ∧ 1 ≤ Sensor.s1.slot ∧
    completes (exec .readAll State.reset) (fun t => decide (t.sensor.s0.cause ≠ .ok)) = true := by decide
theorem witness_ReadAll_ok :
    completes (exec .readAll { onBus smallBuild (.script scratchAnswers) with dirCount := 1, dir := [deviceA.rom] })
      (fun t => decide (t.sensor.s0.cause = .ok ∧ t.sensor.s1.valid = false)) = true := by
  decide +kernel

/-- `ScratchpadIsReadAndChecked`: nine bytes that check (V-R1), nine that do not (nine times 0xFF), and no presence, on
either channel; directories of one and of two entries. -/
theorem witness_ScratchpadIsReadAndChecked :
    let good : Vector Byte 9 := #v[0x91, 0x01, 0x4B, 0x46, 0x7F, 0xFF, 0x0C, 0x10, 0x70]
    let bad : Vector Byte 9 := Vector.replicate 9 0xFF
    scratchAnswers = channelAnswers (some good) ++ [] ∧ crcFold .msb31 0 good.toList = 0 ∧
    crcFold .msb31 0 bad.toList = 0xC6 ∧
    ({ onBus smallBuild (.script scratchAnswers) with dirCount := 1 } : State).dirCount = 1 ∧
    ∀ a0 ∈ [none, some good, some bad], ∀ a1 ∈ [none, some good, some bad],
      let s : State := { onBus smallBuild (.script (channelAnswers a0 ++ channelAnswers a1 ++ [])) with
        dirCount := 2, dir := [deviceB.rom, deviceA.rom] }
      2 ≤ s.dirCount ∧ s.wire.env = .script (channelAnswers a0 ++ channelAnswers a1 ++ []) := by
  decide +kernel

/-- V-R1's scratchpad on channel 1, in the second directory entry, after a channel 0 without presence (R173, R174). -/
theorem test_readAll_channel1 :
    completes (exec .readAll { onBus smallBuild (.script (true :: scratchAnswers)) with
        dirCount := 2, dir := [deviceB.rom, deviceA.rom] })
      (fun t => ends .busTimeout 2 t && decide (memRead t 0x12 = 0x0102 ∧ t.sensor.s1.temp = 0x00FA)) = true := by
  decide +kernel

/-- `MinMaxWidensTheCurrentSlot`: the current slot of a valid channel, another slot, and an invalid channel. -/
theorem witness_MinMaxWidensTheCurrentSlot :
    (0 : Fin 24) = State.reset.histIdx ∧ ((reading 250 (-5) State.reset).sensor.get .s0).valid = true ∧
    (23 : Fin 24) ≠ State.reset.histIdx ∧ (State.reset.sensor.get .s1).valid = false := by decide

/-- `ClockAdvances`: the last second of a day on a leap step. -/
theorem witness_ClockAdvances : (edge 59 59 23 2).Inv ∧ (edge 59 59 23 2).leap + 1 = smallBuild.leapPeriod :=
  ⟨edge_inv 59 59 23 2 (by decide) (by decide) (by decide) (by decide), rfl⟩

/-- `LeapSecondsAccumulate`. -/
theorem witness_LeapSecondsAccumulate :
    (edge 0 0 0 0).Inv ∧ clockSeconds (edge 0 0 0 0) = 0 ∧ (edge 0 0 0 0).leap = 0 :=
  ⟨edge_inv 0 0 0 0 (by decide) (by decide) (by decide) (by decide), rfl, rfl⟩

/-- `HourRollOpensASlot`: the new slot and another one. -/
theorem witness_HourRollOpensASlot : State.reset.hourRoll.histIdx = 1 ∧ (0 : Fin 24) ≠ State.reset.hourRoll.histIdx := by
  decide

/-- `HistoryWrapsAfterADay`: nothing in between, and a min/max update in between. -/
theorem witness_HistoryWrapsAfterADay : (∀ u : State, (id u).histIdx = u.histIdx) ∧ ∀ u : State, u.minMax.histIdx = u.histIdx :=
  ⟨fun _ => rfl, fun _ => rfl⟩

/-- `AcquireCycleCompletes`: with and without presence; the hour rolls (59:59) and does not roll. -/
theorem witness_AcquireCycleCompletes :
    (loaded (onBus smallBuild (.devices []))).setpointsLoaded = true ∧
    (loaded (onBus smallBuild (.devices []))).wire.env.presenceLevel [] = true ∧
    (loaded (onBus smallBuild (.devices [deviceA]))).wire.env.presenceLevel [] = false ∧
    completes (exec .acquireCycle (loaded { onBus smallBuild (.devices []) with minute := 59, sec := 59 }))
      (fun t => t.hourRolled) = true ∧
    completes (exec .acquireCycle (loaded (onBus smallBuild (.devices []))))
      (fun t => !t.hourRolled && !t.sensor.s0.valid) = true ∧
    completes (exec .acquireCycle (loaded (onBus smallBuild (.devices [deviceA]))))
      (fun t => decide (t.sensor.s0.cause ≠ .ok)) = true := by decide
/-- V-R1 in a cycle: its reading enters the slot that was current, also when the hour rolls in the same cycle. -/
theorem witness_AcquireCycle_ok :
    completes (exec .acquireCycle (loaded { onBus smallBuild (.script (false :: scratchAnswers)) with
        dirCount := 1, dir := [deviceA.rom] }))
      (fun t => decide (t.sensor.s0.cause = .ok ∧ t.sensor.s0.hist[0] = { lo := 250, hi := 250 })) = true := by
  decide +kernel
theorem witness_AcquireCycle_roll :
    completes (exec .acquireCycle (loaded { onBus smallBuild (.script (false :: scratchAnswers)) with
        dirCount := 1, dir := [deviceA.rom], minute := 59, sec := 59 }))
      (fun t => t.hourRolled && t.sensor.s0.valid &&
        decide (t.sensor.s0.hist[0] = { lo := 250, hi := 250 } ∧ t.sensor.s0.hist[1] = HistSlot.empty)) = true := by
  decide +kernel

/-- `OutputUpdateDecidesAndDebounces`, `CouplingForcesChannel2`: loaded setpoints; ST2[1] = 1 after the step (V-O6 step 8),
with channel 2's counter below N1 - 1. -/
theorem witness_CouplingForcesChannel2 :
    (loaded (State.powerOn smallBuild)).setpointsLoaded = true ∧
    completes (exec .outputUpdate (reading 120 120 (loaded (State.powerOn { dirCap := 2, n1 := 1, n2 := 1 }))))
      (fun t => t.out.c1.st2) = true ∧
    completes (exec .outputUpdate { reading 120 120 (loaded (State.powerOn smallBuild)) with
        out := { c1 := { cur := true, cnt := 3, st1 := true, st2 := false },
                 c2 := { cur := false, cnt := 3, st1 := false, st2 := false } } })
      (fun t => t.out.c1.st2 && decide (t.out.c2.cnt.toNat < 2)) = true := by decide

/-- `InvalidReadingForcesOff`: one state for each channel-1 source. -/
theorem witness_InvalidReadingForcesOff :
    ∀ src ∈ [Ch1Source.either, .sensor0, .sensor1],
      let s := loaded (State.powerOn { smallBuild with ch1Source := src })
      isNext (exec .outputUpdate s) = true ∧ s.build.ch1Source = src ∧ s.sensor.s0.valid = false ∧
        s.sensor.s1.valid = false := by decide

/-- `DebounceNeedsN1Steps`: the least lengths, the greatest, and a number of steps for each clause. -/
theorem witness_DebounceNeedsN1Steps :
    (1 ≤ 1 ∧ 1 ≤ 1 ∧ 1 ≤ 256 ∧ 0 < 1 ∧ 1 ≤ 1) ∧ (1 ≤ 256 ∧ 256 ≤ 256 ∧ 255 < 256 ∧ 1 ≤ 255) := by decide

/-- `OutputStepIsDeterministic`: two states that differ outside what OutputStep may look at. -/
theorem witness_OutputStepIsDeterministic :
    SameOutputInputs (loaded State.reset) { loaded State.reset with hour := 5 } ∧
    isNext (exec .outputUpdate (loaded State.reset)) = true ∧
    isNext (exec .outputUpdate { loaded State.reset with hour := 5 }) = true :=
  ⟨⟨rfl, rfl, rfl, rfl, rfl, rfl, rfl⟩, by decide, by decide⟩

/-- `CommandBusTimes`: the clauses that ask for an outcome. The others complete from every state but for OUTPUT_UPDATE. -/
theorem witness_CommandBusTimes :
    completes (exec (.select 0) { onBus smallBuild .held with dirCount := 1 }) (ends .ok 1) = true ∧
    completes (exec .startConversions (onBus smallBuild .held)) (ends .ok 1) = true ∧
    completes (exec (searchCommand true) (onBus smallBuild .held)) (ends .ok 1) = true ∧
    completes (exec (searchCommand false) { State.reset with ldf := true }) (ends .searchExhausted 0) = true ∧
    isNext (exec .outputUpdate (loaded State.reset)) = true := by
  decide +kernel

end Sys2Proof.Tests
end

section
/-!
PROOFS. The memory family (20_memory.md): reads and writes of the register map by what an address names (R61-R64), the
windows (R72, R73) and the command write (R65).
-/

namespace Sys2Proof.Machine

/-! ### Reads, by what the address names -/

/-- A named register is read at its address (R62). -/
@[simp] theorem memRead_addr (s : State) (r : RegName) : memRead s r.addr = readReg s r := by
  rw [memRead, locate_addr]

/-- A register of the DIR window (R72). -/
theorem memRead_dirWindow (s : State) (i : Fin 16) (k : Fin 4) :
    memRead s (0x40 + BitVec.ofNat 8 (4 * i.val + k.val)) =
      if i.val < s.build.dirCap then addressWord (s.dirEntry i.val) k.val else 0 := by
  rw [memRead, locate_dirWindow]

/-- The first register of an offset in the HIST window (R73). -/
theorem memRead_histMin (s : State) (ch : Fin 2) (off : Fin 24) :
    memRead s (0x80 + BitVec.ofNat 8 (48 * ch.val + 2 * off.val)) =
      readHist s (if ch = 0 then .s0 else .s1) off.val false := by
  rw [memRead, locate_histMin]

/-- The second register of an offset in the HIST window (R73). -/
theorem memRead_histMax (s : State) (ch : Fin 2) (off : Fin 24) :
    memRead s (0x80 + BitVec.ofNat 8 (48 * ch.val + 2 * off.val + 1)) =
      readHist s (if ch = 0 then .s0 else .s1) off.val true := by
  rw [memRead, locate_histMax]

/-! ### Writes, by what the address names -/

/-- A write of any register but CMD reaches no bus line. -/
@[simp] theorem writeRegister_wire (s : State) (a : Byte) (v : Word) : (writeRegister s a v).wire = s.wire := by
  unfold writeRegister
  split <;> rfl

/-- The windows hold no named register. -/
theorem locateWindow_ne_reg (n : Nat) (r : RegName) : locateWindow n ≠ .reg r := by
  unfold locateWindow
  split_ifs <;> exact Location.noConfusion

/-- `locate_addr` the other way: an address names at most its own register. -/
theorem eq_addr_of_locate (a : Byte) (r : RegName) (h : locate a = .reg r) : a = r.addr := by
  unfold locate at h
  split at h
  case h_28 => exact absurd h (locateWindow_ne_reg _ r)
  all_goals
    cases h
    exact BitVec.eq_of_toNat_eq ‹_›

/-- CTRL takes bit 0 of the value: its reserved bits are ignored (R64). -/
theorem writeRegister_ctrl (s : State) (v : Word) : writeRegister s 0x03 v = { s with auto := v.getLsbD 0 } := rfl

/-- Only CTRL and the setpoints take a value (R64). -/
theorem writeRegister_readOnly (s : State) (a : Byte) (v : Word) (h : a ∉ writableAddresses) :
    writeRegister s a v = s := by
  have hne (r : RegName) (hr : r.addr ∈ writableAddresses) : locate a ≠ .reg r :=
    fun hl => h (eq_addr_of_locate a r hl ▸ hr)
  unfold writeRegister
  split
  case h_1 hl => exact absurd hl (hne .ctrl (by decide))
  case h_2 hl => exact absurd hl (hne .spCh1On (by decide))
  case h_3 hl => exact absurd hl (hne .spCh1Off (by decide))
  case h_4 hl => exact absurd hl (hne .spCh2On (by decide))
  case h_5 hl => exact absurd hl (hne .spCh2Off (by decide))
  all_goals rfl

/-- Outside the writable addresses a bus write has no effect: in particular it is no write of CMD. -/
theorem memWrite_readOnly (s : State) (a : Byte) (v : Word) (h : a ∉ writableAddresses) :
    memWrite s a v = .next s := by
  have hcmd : a ≠ 0x00 := fun h0 => h (by rw [h0]; decide)
  rw [memWrite_other s a v hcmd, writeRegister_readOnly s a v h]

/-! ### Reserved addresses -/

/-- The addresses R62 leaves to "all others" name nothing. -/
theorem locate_reserved (a : Byte) (h : reservedAddress a.toNat = true) : locate a = .reserved := by
  revert a; decide

/-- No reserved address is writable. -/
theorem reserved_notMem_writable (a : Byte) (h : reservedAddress a.toNat = true) : a ∉ writableAddresses := by
  revert a; decide

/-- Settles O22: a reserved address names nothing, so a read gives 0, and it is not among the writable ones. -/
theorem reservedAddressesReadZero : Obligations.ReservedAddressesReadZero := by
  intro s a v h
  constructor
  · rw [memRead, locate_reserved a h]
  · exact memWrite_readOnly s a v (reserved_notMem_writable a h)

/-- Settles O23, by `memWrite_readOnly` outside the six writable addresses and the meaning of CTRL at its own. -/
theorem readOnlyRegistersIgnoreWrites : Obligations.ReadOnlyRegistersIgnoreWrites := by
  intro s a v
  refine ⟨memWrite_readOnly s a v, ?_, ?_⟩
  · rw [memWrite_other s 0x03 v (by decide), writeRegister_ctrl]
  · calc memRead s 0x03 = zextBool s.auto := memRead_addr s .ctrl
      _ = if s.auto then 0x0001 else 0x0000 := by cases s.auto <;> rfl

/-! ### The command write (R65) -/

/-- A word that encodes a command runs it with LASTCMD set. -/
theorem writeCommand_of_command (s : State) (v : Word) (i : Instr) (h : decode v = .command i) :
    writeCommand s v = exec i { s with lastCmd := v } := by
  rw [writeCommand, h]

/-- A word with an illegal opcode (R93) only sets LASTCMD, ERR and RESULT. -/
theorem writeCommand_of_illegalCommand (s : State) (v : Word) (h : decode v = .illegalCommand) :
    writeCommand s v = .next { s with lastCmd := v, err := .illegalCommand, result := 0 } := by
  rw [writeCommand, h]
  rfl

/-- A word with a bad operand (R94) only sets LASTCMD, ERR and RESULT. -/
theorem writeCommand_of_badOperand (s : State) (v : Word) (h : decode v = .badOperand) :
    writeCommand s v = .next { s with lastCmd := v, err := .badOperand, result := 0 } := by
  rw [writeCommand, h]
  rfl

/-- A step whose turn writes CMD is the command write. -/
theorem step_of_commandWrite (s : State) (w : Word) (rest : List Turn) (h : s.sched = .hostWrite 0x00 w :: rest) :
    step s = writeCommand { s with sched := rest } w := by
  rw [step_cons s _ rest h, takeTurn, memWrite_cmd]

/-- Settles O6: the step is the command write, which follows the word's decode; a write of any other register is
`writeRegister`, which keeps the wire. -/
theorem stepExecutesTheWrittenCommand : Obligations.StepExecutesTheWrittenCommand := by
  intro s w rest hs
  rw [step_of_commandWrite s w rest hs]
  refine ⟨writeCommand_of_command _ w, writeCommand_of_illegalCommand _ w, writeCommand_of_badOperand _ w,
    memRead_addr s .cmd, ?_⟩
  intro a v t ha ht
  rw [memWrite_other s a v ha] at ht
  cases ht
  exact writeRegister_wire s a v

/-! ### The windows (R72, R73) -/

/-- An address of zero bytes shows 0 in every register (R28). -/
theorem addressWord_replicate_zero (k : Nat) : addressWord (Vector.replicate 8 0) k = 0 := by
  have hbyte (j : Nat) : (Vector.replicate 8 (0 : Byte)).getD j 0 = 0 := by
    by_cases hj : j < 8 <;> simp [Vector.getD, hj]
  rw [addressWord, hbyte, hbyte]
  rfl

/-- Settles O26: an entry below DIR_CAP shows its two bytes, and the invariant keeps the entries from DIRCOUNT
on empty. -/
theorem dirWindowShowsTheDirectory : Obligations.DirWindowShowsTheDirectory := by
  intro s i k hinv
  rw [memRead_dirWindow]
  constructor
  · intro hcap
    rw [if_pos hcap, addressWord_toNat]
  · intro hcount
    rw [hinv.dirEmpty i.val hcount, addressWord_replicate_zero, ite_self]

/-- A history register in terms of the slot its offset names. -/
theorem readHist_of_slot (s : State) (ch : Sensor) (off : Nat) (isMax : Bool) (slot : Fin 24)
    (h : histSlotAt s off = slot) :
    readHist s ch off isMax = if isMax then (s.sensor.get ch).hist[slot].hi else (s.sensor.get ch).hist[slot].lo := by
  subst h
  rfl

/-- Taking a component of a pair commutes with choosing which one. -/
theorem sensor_get_ite {α : Type} (x : PerSensor α) (p : Prop) [Decidable p] :
    x.get (if p then .s0 else .s1) = if p then x.s0 else x.s1 :=
  apply_ite x.get p .s0 .s1

/-- Settles O27: the offset names the slot (`histSlotAt_eq`), and each of its two registers one of the slot's words. -/
theorem histWindowIsOffsetRelative : Obligations.HistWindowIsOffsetRelative := by
  intro s ch off slot h
  have hslot := histSlotAt_eq s off slot h
  rw [memRead_histMin, memRead_histMax, readHist_of_slot _ _ _ _ _ hslot, readHist_of_slot _ _ _ _ _ hslot,
    sensor_get_ite]
  exact ⟨rfl, rfl⟩

end Sys2Proof.Machine
end

section
/-!
PROOFS. The encoding family (30_encoding.md): the two refusals of the decoder, by opcode (R93) and by operand (R94), and
that a refused word writes LASTCMD, ERR and RESULT only.
-/

namespace Sys2Proof.Machine

/-! ### What an operand class can answer (R91, R94) -/

/-- A class N operand other than 0 is bad. -/
theorem classN_of_ne_zero (i : Instr) (a : Byte) (h : a.toNat ≠ 0) : classN i a = .badOperand :=
  if_neg fun h0 => h (by rw [h0]; rfl)

/-- A class B operand above 1 has one of the bits 7:1 set, so it is bad. -/
theorem classB_of_two_le (f : Bool → Instr) (a : Byte) (h : 2 ≤ a.toNat) : classB f a = .badOperand := by
  have hbits : a.extractLsb' 1 7 ≠ 0#7 := by
    intro h0
    have hn := congrArg BitVec.toNat h0
    rw [BitVec.extractLsb'_toNat, Nat.shiftRight_eq_div_pow, BitVec.toNat_ofNat] at hn
    omega
  exact if_neg hbits

/-- A class N operand is never answered with the illegal opcode. -/
theorem classN_ne_illegalCommand (i : Instr) (a : Byte) : classN i a ≠ .illegalCommand := by
  unfold classN
  split <;> exact Decoded.noConfusion

/-- A class B operand is never answered with the illegal opcode. -/
theorem classB_ne_illegalCommand (f : Bool → Instr) (a : Byte) : classB f a ≠ .illegalCommand := by
  unfold classB
  split <;> exact Decoded.noConfusion

/-! ### The decoder by opcode (R92, R93) -/

/-- The opcodes of R92 whose operand may be any byte: classes V and I. -/
def anyOperandOpcodes : List Nat := [0x04, 0x07, 0x0B]

/-- What the opcode alone decides (R92, R93): the class that judges the operand, or the illegal opcode. -/
theorem decode_cases (w : Word) :
    (w.toNat % 256 ∈ classNOpcodes ∧ ∃ i, decode w = classN i (operandField w)) ∨
    (w.toNat % 256 = 0x02 ∧ decode w = classB .owWriteBit (operandField w)) ∨
    (w.toNat % 256 ∈ anyOperandOpcodes ∧ ∃ i, decode w = .command i) ∨
    (illegalOpcode (w.toNat % 256) = true ∧ decode w = .illegalCommand) := by
  rw [← opField_toNat]
  unfold decode
  split
  case h_3 hop => exact .inr (.inl ⟨hop, rfl⟩)
  case h_5 hop | h_8 hop | h_12 hop => exact .inr (.inr (.inl ⟨by rw [hop]; decide, _, rfl⟩))
  case h_20 =>
    refine .inr (.inr (.inr ⟨?_, rfl⟩))
    simp only [illegalOpcode, Bool.or_eq_true, decide_eq_true_eq, beq_iff_eq, imp_false] at *
    omega
  all_goals
    rename_i hop
    exact .inl ⟨by rw [hop]; decide, _, rfl⟩

/-- No opcode of R92 is among those R93 lists. -/
theorem not_illegalOpcode_of_listed (op : Nat) (h : op ∈ classNOpcodes ∨ op = 0x02 ∨ op ∈ anyOperandOpcodes) :
    ¬illegalOpcode op = true := by
  have key : ∀ op ∈ classNOpcodes ++ 0x02 :: anyOperandOpcodes, ¬illegalOpcode op = true := by decide
  exact key op (by simpa using h)

/-- The decoder answers the illegal opcode exactly on the values R93 lists: no operand class gives that answer. -/
theorem decode_eq_illegalCommand_iff (w : Word) :
    decode w = .illegalCommand ↔ illegalOpcode (w.toNat % 256) = true := by
  obtain ⟨hop, i, hi⟩ | ⟨hop, hi⟩ | ⟨hop, i, hi⟩ | ⟨hop, hi⟩ := decode_cases w <;> rw [hi]
  · exact iff_of_false (classN_ne_illegalCommand i _) (not_illegalOpcode_of_listed _ (.inl hop))
  · exact iff_of_false (classB_ne_illegalCommand _ _) (not_illegalOpcode_of_listed _ (.inr (.inl hop)))
  · exact iff_of_false Decoded.noConfusion (not_illegalOpcode_of_listed _ (.inr (.inr hop)))
  · exact iff_of_true rfl hop

/-- An opcode of class N with an operand other than 0 (R94). -/
theorem decode_classNOpcode_eq_badOperand (w : Word) (h : w.toNat % 256 ∈ classNOpcodes) (ha : w.toNat / 256 ≠ 0) :
    decode w = .badOperand := by
  obtain ⟨-, i, hi⟩ | ⟨hop, -⟩ | ⟨hop, -⟩ | ⟨hop, -⟩ := decode_cases w
  · rw [hi, classN_of_ne_zero i _ (by rwa [operandField_toNat])]
  · exact absurd h (by rw [hop]; decide)
  · exact absurd hop ((by decide : ∀ op ∈ classNOpcodes, op ∉ anyOperandOpcodes) _ h)
  · exact absurd hop (not_illegalOpcode_of_listed _ (.inl h))

/-- OW_WRITE_BIT with an operand above 1 (R94). -/
theorem decode_owWriteBit_eq_badOperand (w : Word) (h : w.toNat % 256 = 0x02) (ha : 2 ≤ w.toNat / 256) :
    decode w = .badOperand := by
  have hop : (opField w).toNat = 0x02 := by rw [opField_toNat, h]
  simp only [decode, hop]
  exact classB_of_two_le _ _ (by rwa [operandField_toNat])

/-- A listed opcode whose operand breaks its class is a bad operand (R94). -/
theorem decode_eq_badOperand (w : Word)
    (h : (w.toNat % 256 ∈ classNOpcodes ∧ w.toNat / 256 ≠ 0) ∨ (w.toNat % 256 = 0x02 ∧ 2 ≤ w.toNat / 256)) :
    decode w = .badOperand :=
  h.elim (fun ⟨hop, ha⟩ => decode_classNOpcode_eq_badOperand w hop ha)
    (fun ⟨hop, ha⟩ => decode_owWriteBit_eq_badOperand w hop ha)

/-! ### Refused words written to CMD -/

/-- Settles O3: the decoder's illegal answer is R93's set of opcodes, and the command write answers it by setting
LASTCMD, ERR and RESULT. -/
theorem illegalOpcodesOnlySetErr : Obligations.IllegalOpcodesOnlySetErr := by
  intro s w
  refine ⟨decode_eq_illegalCommand_iff w, fun h => ?_⟩
  rw [memWrite_cmd, writeCommand_of_illegalCommand s w ((decode_eq_illegalCommand_iff w).2 h)]

/-- Settles O4: the operand class refuses the word before the command runs, and an illegal opcode never reaches a
class. -/
theorem badOperandsOnlySetErr : Obligations.BadOperandsOnlySetErr := by
  intro s w
  refine ⟨fun h => ?_, (decode_eq_illegalCommand_iff w).2, rfl, rfl⟩
  have hbad := decode_eq_badOperand w h
  exact ⟨hbad, memWrite_cmd s w ▸ writeCommand_of_badOperand s w hbad⟩

end Sys2Proof.Machine
end

section
/-!
PROOFS. The bus primitives (40_bus_primitives.md): the commands that leave the line alone (R126, R127, R240).
-/

namespace Sys2Proof.Machine

/-! ### NOP and the CRC accumulator's commands -/

/-- The next state of NOP (R240). -/
theorem exec_nop (s : State) : exec .nop s = .next { s with err := .ok, result := 0 } := rfl

/-- The next state of CRC_CLEAR (R126). -/
theorem exec_crcClear (s : State) : exec .crcClear s = .next { s with crc := 0, err := .ok, result := 0 } := rfl

/-- The next state of CRC_UPDATE (R127): RESULT is the zero-extended new CRC. -/
theorem exec_crcUpdate (v : Byte) (s : State) :
    exec (.crcUpdate v) s =
      .next { s with
        crc := crcStep s.build.crcForm s.crc v
        err := .ok
        result := (crcStep s.build.crcForm s.crc v).setWidth 16 } := rfl

/-- Settles O31: the next states are the commands' own equations, and a zero-extended byte keeps its value. -/
theorem nopAndCrcCommandsComplete : Obligations.NopAndCrcCommandsComplete := by
  intro s
  refine ⟨exec_nop s, exec_crcClear s, fun v => ⟨_, exec_crcUpdate v s, rfl, ?_, rfl⟩⟩
  exact BitVec.toNat_setWidth_of_le (by decide : 8 ≤ 16)

end Sys2Proof.Machine
end

section
/-!
PROOFS. The search pass (41_search_directory.md): the bus events of a successful pass read slot by slot, and the tree it
follows (R141-R146).
-/

namespace Sys2Proof.Machine

/-! ### The events of a pass -/

/-- The bus events of a pass answered at every position (R141): the reset, the search command byte, 64 triples. -/
def passEvents (cmd : Byte) (bs : Nat → Bool × Bool) (rom : Address) : List BusEvent :=
  .reset true :: writeSlots cmd ++ walkSlots bs rom 64 1

theorem passEvents_length (cmd : Byte) (bs : Nat → Bool × Bool) (rom : Address) :
    (passEvents cmd bs rom).length = 201 := by
  simp [passEvents, writeSlots, walkSlots_length]

/-- The pass begins with the reset and the command byte. -/
theorem passEvents_take (cmd : Byte) (bs : Nat → Bool × Bool) (rom : Address) :
    (passEvents cmd bs rom).take 9 = .reset true :: writeSlots cmd :=
  List.take_left' (by simp [writeSlots])

/-- The triples follow the nine events of the preamble. -/
theorem passEvents_getElem?_add (cmd : Byte) (bs : Nat → Bool × Bool) (rom : Address) (i : Nat) :
    (passEvents cmd bs rom)[9 + i]? = (walkSlots bs rom 64 1)[i]? := by
  have hlen : (BusEvent.reset true :: writeSlots cmd).length = 9 := by simp [writeSlots]
  rw [passEvents, List.getElem?_append_right (by omega), hlen, Nat.add_sub_cancel_left]

/-- The slots of a position hold the pair read there and the direction that stands in ROM. -/
theorem searchSlots_passEvents_iff (cmd : Byte) (bs : Nat → Bool × Bool) (rom : Address) (k : Nat) (hk : k < 64)
    (b cb d : Bool) :
    SearchSlots (passEvents cmd bs rom) (1 + k) b cb d ↔ bs k = (b, cb) ∧ romBit rom (1 + k) = d := by
  obtain ⟨hb, hcb, hd⟩ := walkSlots_getElem? bs rom 64 1 k hk
  unfold SearchSlots
  rw [Nat.add_sub_cancel_left, show 10 + 3 * k = 9 + (3 * k + 1) by omega, show 11 + 3 * k = 9 + (3 * k + 2) by omega]
  simp only [passEvents_getElem?_add, hb, hcb, hd, Option.some.injEq, BusEvent.read.injEq, BusEvent.write.injEq,
    Prod.ext_iff, and_assoc]

/-- Zero choices, read from the events and from the walk (R144): an answered pair of equal bits is `(0, 0)`. -/
theorem zeroChoice_passEvents_iff (cmd : Byte) (bs : Nat → Bool × Bool) (rom : Address) (k : Nat) (hk : k < 64)
    (h : bs k ≠ (true, true)) : ZeroChoice (passEvents cmd bs rom) (1 + k) ↔ TookZero 1 bs rom k := by
  rw [ZeroChoice, searchSlots_passEvents_iff _ _ _ _ hk, TookZero, and_congr_left_iff]
  rintro -
  generalize bs k = pair at h
  revert pair
  decide

/-! ### The direction -/

/-- The model's direction is the one R142 and R143 prescribe at an answered position. -/
theorem prescribedDirection_searchDirection (rom : Address) (ld p : Nat) (b cb : Bool) :
    PrescribedDirection rom ld p b cb (searchDirection rom ld p b cb) := by
  unfold PrescribedDirection searchDirection discrepancyDirection
  refine ⟨fun h => if_neg h, ?_, ?_, ?_⟩
  · rintro ⟨rfl, rfl⟩ hlt
    rw [if_pos rfl, if_pos hlt]
  · rintro ⟨rfl, rfl⟩ rfl
    simp
  · rintro ⟨rfl, rfl⟩ hlt
    rw [if_pos rfl, if_neg (by omega), decide_eq_false (by omega)]

/-! ### A successful pass -/

/-- A search command is its pass, then ERR and RESULT (R148, R149). -/
theorem exec_searchCommand (s : State) (first : Bool) :
    exec (searchCommand first) s =
      .next ((s.searchPass first).2.finish (s.searchPass first).1 (zextBool (s.searchPass first).2.found)) := by
  cases first <;> rfl

/-- A successful pass saw presence and was answered at every position; it leaves the line, ROM and LD as its walk does
(R141, R146). -/
theorem searchPass_of_ok (s : State) (first : Bool) (h : (s.searchPass first).1 = .ok) :
    s.wire.env.presenceLevel s.wire.trace = false ∧ (s.passWalk first).1 = true ∧
      (s.searchPass first).2.wire = (s.passWalk first).2.wire ∧
      (s.searchPass first).2.rom = (s.passWalk first).2.rom ∧
      (s.searchPass first).2.ld = (s.passWalk first).2.lastZero := by
  obtain ⟨-, -, e⟩ | ⟨-, -, e⟩ | ⟨-, hp, e⟩ := searchPass_cases s first
  · rw [e] at h; cases h
  · rw [e] at h; cases h
  · rw [e] at h ⊢
    obtain ⟨-, e⟩ | ⟨-, -, e⟩ | ⟨hw, -, e⟩ := endPass_cases (s.passStart first) (s.passWalk first)
    · rw [e] at h; cases h
    · rw [e] at h; cases h
    · rw [e]; exact ⟨hp, hw, rfl, rfl, rfl⟩

/-- The preamble of a pass: a reset that sees presence, then a byte (R112, R115). -/
theorem reset_writeByte_trace (w : Wire) (v : Byte) (hp : w.env.presenceLevel w.trace = false) :
    (w.reset.2.writeByte v).trace = (.reset true :: writeSlots v).reverse ++ w.trace := by
  simp [writeByte_trace, byteBits_eq_range, writeSlots, hp, Function.comp_def]

/-- An answered walk after a reset that saw presence: its events are those of a pass, every direction follows the tree,
and the last zero choice is the highest (R141-R144). -/
theorem passWalk_events (s : State) (first : Bool) (hp : s.wire.env.presenceLevel s.wire.trace = false)
    (h : (s.passWalk first).1 = true) :
    ∃ bs : Nat → Bool × Bool,
      (s.passWalk first).2.wire.trace =
        (passEvents s.build.cmdSearch bs (s.passWalk first).2.rom).reverse ++ s.wire.trace ∧
      (∀ k, k < 64 → bs k ≠ (true, true) ∧ romBit (s.passWalk first).2.rom (1 + k) =
        searchDirection s.rom (ldAtStart first s) (1 + k) (bs k).1 (bs k).2) ∧
      (∀ k, k < 64 → (s.passWalk first).2.lastZero < 1 + k → ¬TookZero 1 bs (s.passWalk first).2.rom k) ∧
      ((s.passWalk first).2.lastZero = 0 ∨
        ∃ k, k < 64 ∧ (s.passWalk first).2.lastZero = 1 + k ∧ TookZero 1 bs (s.passWalk first).2.rom k) := by
  obtain ⟨bs, htrace, htree, -, hhigh, hlast⟩ := positions_true s.build.crcForm (ldAtStart first s) 64 1
    { wire := s.wire.reset.2.writeByte s.build.cmdSearch, rom := s.rom, crc := 0, lastZero := 0 }
    (by decide) (by decide) h
  refine ⟨bs, htrace.trans ?_, htree, hhigh, hlast⟩
  rw [reset_writeByte_trace _ _ hp, ← List.append_assoc, ← List.reverse_append]
  rfl

/-- A successful pass as its bus events show it (R141-R144). -/
theorem searchPass_events (s : State) (first : Bool) (h : (s.searchPass first).1 = .ok) :
    ∃ evs : List BusEvent, BusEvents s (s.searchPass first).2 evs ∧ evs.length = 201 ∧
      evs.take 9 = .reset true :: writeSlots s.build.cmdSearch ∧
      (∀ p, 1 ≤ p → p ≤ 64 → ∃ b cb, SearchSlots evs p b cb (romBit (s.searchPass first).2.rom p) ∧
        ¬(b = true ∧ cb = true) ∧
        PrescribedDirection s.rom (ldAtStart first s) p b cb (romBit (s.searchPass first).2.rom p)) ∧
      ((s.searchPass first).2.ld ≠ 0 → ZeroChoice evs (s.searchPass first).2.ld) ∧
      (∀ p, (s.searchPass first).2.ld < p → p ≤ 64 → ¬ZeroChoice evs p) := by
  obtain ⟨hp, hw, ewire, erom, eld⟩ := searchPass_of_ok s first h
  obtain ⟨bs, htrace, htree, hhigh, hlast⟩ := passWalk_events s first hp hw
  simp only [BusEvents, ewire, erom, eld]
  have hzero := fun k hk => zeroChoice_passEvents_iff s.build.cmdSearch bs (s.passWalk first).2.rom k hk (htree k hk).1
  refine ⟨_, htrace, passEvents_length _ _ _, passEvents_take _ _ _, fun p h1 h64 => ?_, fun hne => ?_,
    fun p hlt h64 => ?_⟩
  · obtain ⟨k, rfl⟩ := Nat.exists_eq_add_of_le h1
    obtain ⟨hb, hd⟩ := htree k (by omega)
    refine ⟨(bs k).1, (bs k).2, (searchSlots_passEvents_iff _ _ _ _ (by omega) _ _ _).2 ⟨rfl, rfl⟩,
      fun hone => hb (Prod.ext_iff.2 hone), ?_⟩
    rw [hd]
    exact prescribedDirection_searchDirection _ _ _ _ _
  · obtain hz | ⟨k, hk, ek, htook⟩ := hlast
    · exact absurd hz hne
    · rw [ek]
      exact (hzero k hk).2 htook
  · obtain ⟨k, rfl⟩ := Nat.exists_eq_add_of_le (show 1 ≤ p by omega)
    exact fun hz => hhigh k (by omega) hlt ((hzero k (by omega)).1 hz)

/-- Settles O38: the state part is the outcome of a pass that ended OK, the address checks because CRC is the fold of
ROM, and the events are those of its walk. -/
theorem successfulPassFollowsTheTree : Obligations.SuccessfulPassFollowsTheTree := by
  intro s t first hex herr
  rw [exec_searchCommand] at hex
  cases hex
  have hok : (s.searchPass first).1 = .ok := herr
  obtain ⟨-, hfound, hcrc, hld, hldf⟩ | ⟨hfail, -⟩ := searchPass_result s first
  · have hchecks : AddressChecks s.build.crcForm (s.searchPass first).2.rom := searchPass_checks s first hok
    exact ⟨hfound, hcrc, hchecks, hld, hldf, searchPass_events s first hok⟩
  · rw [hok] at hfail
    exact absurd hfail (by decide)

end Sys2Proof.Machine
end

section
/-!
PROOFS. Acquisition (42_acquisition.md): the bus events of a conversion start (R172), and what the min/max history does
to one slot, one channel and the whole state (R175).
-/

namespace Sys2Proof.Machine

/-! ### Conversion start (R172) -/

/-- START_CONVERSIONS is `StartConv()`, then ERR and RESULT from its answer. -/
theorem exec_startConversions (s : State) :
    exec .startConversions s = .next (s.startConv.2.finish (presenceErr s.startConv.1) (zextBool s.startConv.1)) := rfl

/-- A byte written adds its eight write slots to the trace, least significant bit first (R115). -/
theorem writeByte_trace_writeSlots (w : Wire) (v : Byte) :
    (w.writeByte v).trace = (writeSlots v).reverse ++ w.trace := by
  rw [writeByte_trace, byteBits_eq_range, List.map_map]
  rfl

/-- A conversion start whose reset saw presence, with a device ever found, sends the broadcast. -/
theorem startConv_events_broadcast (s : State) (hp : s.wire.env.presenceLevel s.wire.trace = false)
    (hd : 0 < s.dirCount) :
    BusEvents s s.startConv.2 (.reset true :: writeSlots s.build.cmdSkip ++ writeSlots s.build.cmdConvert) := by
  obtain ⟨-, -, e⟩ | ⟨hnone, -⟩ := startConv_cases s
  · rw [BusEvents, e, busWriteByte_wire, busWriteByte_wire, busReset_wire, writeByte_trace_writeSlots,
      reset_writeByte_trace _ _ hp, List.reverse_append, List.append_assoc]
  · rcases hnone with hp' | hd'
    · exact absurd (hp.symm.trans hp') (by decide)
    · omega

/-- A conversion start without presence, or with no device ever found, issues its reset only. -/
theorem startConv_events_reset (s : State)
    (h : s.wire.env.presenceLevel s.wire.trace = true ∨ s.dirCount = 0) :
    BusEvents s s.startConv.2 [.reset (!s.wire.env.presenceLevel s.wire.trace)] := by
  obtain ⟨hp, hd, -⟩ | ⟨-, e⟩ := startConv_cases s
  · rcases h with hp' | hd'
    · exact absurd (hp.symm.trans hp') (by decide)
    · omega
  · rw [BusEvents, e]
    rfl

/-- Settles O45: the frame is `StartConv()`'s, and its events are those of the case the presence and DIRCOUNT choose. -/
theorem startConversionsBroadcasts : Obligations.StartConversionsBroadcasts := by
  intro s
  obtain ⟨hanswer, hframe, hdrv⟩ := startConv_frame s
  refine ⟨s.startConv.1, _, exec_startConversions s, hanswer, hdrv, ?_, fun hp hd => ?_, fun h => ?_⟩
  · rw [hanswer, hframe]
    cases s.wire.env.presenceLevel s.wire.trace <;> rfl
  · exact startConv_events_broadcast s (by simpa [hanswer] using hp) hd
  · rw [hanswer] at h ⊢
    exact startConv_events_reset s (by simpa using h)

/-! ### The min/max history (R175) -/

/-- A slot that includes a reading already is not widened by it again. -/
@[simp] theorem include_include (h : HistSlot) (t : Word) : (h.include t).include t = h.include t := by
  simp only [HistSlot.include, HistSlot.mk.injEq]
  constructor
  · apply BitVec.eq_of_toInt_eq
    simp only [sMin_toInt, min_assoc, min_self]
  · apply BitVec.eq_of_toInt_eq
    simp only [sMax_toInt, max_assoc, max_self]

/-- An invalid channel is skipped. -/
theorem widen_of_invalid (idx : Fin 24) (c : SensorChan) (h : c.valid = false) : c.widen idx = c := by
  simp [SensorChan.widen, h]

/-- A valid channel has its current slot widened. -/
theorem widen_of_valid (idx : Fin 24) (c : SensorChan) (h : c.valid = true) :
    c.widen idx = { c with hist := c.hist.set idx (c.hist[idx].include c.temp) } := if_pos h

/-- Widening writes the history only. -/
theorem widen_frame (idx : Fin 24) (c : SensorChan) : c.widen idx = { c with hist := (c.widen idx).hist } := by
  unfold SensorChan.widen
  split <;> rfl

/-- The current slot of a valid channel includes the reading. -/
theorem widen_hist_self (idx : Fin 24) (c : SensorChan) (h : c.valid = true) :
    (c.widen idx).hist[idx] = c.hist[idx].include c.temp := by
  rw [widen_of_valid idx c h]
  exact Vector.getElem_set_self _

/-- A slot stays when it is not the current one, and every slot of an invalid channel stays. -/
theorem widen_hist_unchanged (idx k : Fin 24) (c : SensorChan) (h : k ≠ idx ∨ c.valid = false) :
    (c.widen idx).hist[k] = c.hist[k] := by
  unfold SensorChan.widen
  split
  · rename_i hv
    have hne : idx.val ≠ k.val := fun e => h.elim (fun hk => hk (Fin.ext e.symm)) (by simp [hv])
    exact Vector.getElem_set_ne idx.isLt k.isLt hne
  · rfl

/-- Widening twice is widening once. -/
@[simp] theorem widen_widen (idx : Fin 24) (c : SensorChan) : (c.widen idx).widen idx = c.widen idx := by
  cases h : c.valid
  · rw [widen_of_invalid idx c h, widen_of_invalid idx c h]
  · simp [widen_of_valid, h]

/-- UPDATE_MINMAX widens both channels, then sets ERR and RESULT. -/
theorem exec_updateMinmax (s : State) :
    exec .updateMinmax s =
      .next { s with sensor := s.sensor.map (SensorChan.widen s.histIdx), err := .ok, result := 0 } := rfl

/-- Settles O48: every clause is a fact about widening one channel, and the repetition is `widen_widen`. -/
theorem minMaxWidensTheCurrentSlot : Obligations.MinMaxWidensTheCurrentSlot := by
  intro s
  refine ⟨_, exec_updateMinmax s, fun ch k => ?_, fun ch => ?_, rfl, ?_⟩
  · simp only [get_map]
    refine ⟨widen_hist_unchanged _ _ _, ?_⟩
    rintro rfl hv
    rw [widen_hist_self _ _ hv]
    exact ⟨sMin_toInt _ _, sMax_toInt _ _⟩
  · rw [get_map, widen_frame]
    exact ⟨rfl, rfl, rfl⟩
  · rw [exec_updateMinmax]
    simp only [PerSensor.map, widen_widen]

end Sys2Proof.Machine
end

section
/-!
PROOFS. The output controller (43_output_controller.md): the raw decision (R202), the debounce (R207), the two channels
of an output step (R208) and the fault on an unloaded setpoint (R210).
-/

namespace Sys2Proof.Machine

/-! ### The setpoint load flags (R39, R210) -/

/-- All setpoints are loaded when each of the four is. -/
theorem setpointsLoaded_iff (s : State) : s.setpointsLoaded = true ↔ ∀ i : Fin 4, s.spLoaded[i] = true := by
  simp [State.setpointsLoaded, Fin.forall_fin_succ, and_assoc]

/-- One unloaded setpoint is enough. -/
theorem setpointsLoaded_of_unloaded (s : State) (i : Fin 4) (h : s.spLoaded[i] = false) :
    s.setpointsLoaded = false :=
  Bool.eq_false_iff.2 fun hs => Bool.eq_false_iff.1 h ((setpointsLoaded_iff s).1 hs i)

/-- OUTPUT_UPDATE completes where the setpoints are loaded: the output step, then RESULT is the OUT register (R208). -/
theorem exec_outputUpdate_of_loaded (s : State) (h : s.setpointsLoaded = true) :
    exec .outputUpdate s = .next ((outputStep s).finish .ok (outWord (outputStep s))) := if_pos h

/-- OUTPUT_UPDATE faults where they are not. -/
theorem exec_outputUpdate_of_unloaded (s : State) (h : s.setpointsLoaded = false) :
    exec .outputUpdate s = .fault .setpointBeforeLoad := if_neg (by simp [h])

/-- So does ACQUIRE_CYCLE. -/
theorem exec_acquireCycle_of_unloaded (s : State) (h : s.setpointsLoaded = false) :
    exec .acquireCycle s = .fault .setpointBeforeLoad := if_neg (by simp [h])

/-- Settles O21: one unloaded setpoint clears the condition that both commands test. -/
theorem unloadedSetpointsFault : Obligations.UnloadedSetpointsFault := by
  intro s i h
  have hl := setpointsLoaded_of_unloaded s i h
  exact ⟨exec_outputUpdate_of_unloaded s hl, exec_acquireCycle_of_unloaded s hl⟩

/-! ### The raw decision (R202-R204) -/

/-- The polarity that turns on at or above the on-threshold (R201). -/
theorem decideOutput_of_off_lt_on {on off : Int} (h : off < on) (src : Int) (prev : Bool) :
    decideOutput on off src true prev = if on ≤ src then true else if src ≤ off then false else prev := if_pos h

/-- The polarity that turns on at or below the on-threshold (R201). -/
theorem decideOutput_of_on_le_off {on off : Int} (h : on ≤ off) (src : Int) (prev : Bool) :
    decideOutput on off src true prev = if src ≤ on then true else if off ≤ src then false else prev :=
  if_neg (not_lt.2 h)

/-- The model's decision is the one R202 describes: by validity, polarity and where the source lies. -/
theorem decidesTo_decideOutput (on off src : Int) (valid prev : Bool) :
    DecidesTo on off src valid prev (decideOutput on off src valid prev) := by
  refine ⟨?invalid, ?highOn, ?highOff, ?highKeep, ?lowOn, ?lowOff, ?lowKeep⟩
  case invalid => rintro rfl; rfl
  case highOn =>
    rintro rfl h hon
    rw [decideOutput_of_off_lt_on h, if_pos hon]
  case highOff =>
    rintro rfl h hoff
    rw [decideOutput_of_off_lt_on h, if_neg (by omega), if_pos hoff]
  case highKeep =>
    rintro rfl h hoff hon
    rw [decideOutput_of_off_lt_on h, if_neg (by omega), if_neg (by omega)]
  case lowOn =>
    rintro rfl h hon
    rw [decideOutput_of_on_le_off h, if_pos hon]
  case lowOff =>
    rintro rfl h hon hoff
    rw [decideOutput_of_on_le_off h, if_neg (by omega), if_pos hoff]
  case lowKeep =>
    rintro rfl h hon hoff
    rw [decideOutput_of_on_le_off h, if_neg (by omega), if_neg (by omega)]

/-- The polarity in degrees and in tenths of a degree (R200). -/
theorem threshold_lt_iff (s : State) (i j : Fin 4) :
    threshold s i < threshold s j ↔ s.sp[i].toInt < s.sp[j].toInt := by
  unfold threshold
  omega

/-- The channel-1 source and validity are those of R203, with the polarity taken from the thresholds. -/
theorem channel1Source_source1 (s : State) :
    Channel1Source s (source1 s (decide (threshold s 0 > threshold s 1))).1
      (source1 s (decide (threshold s 0 > threshold s 1))).2 := by
  unfold Channel1Source source1
  cases s.build.ch1Source with
  | either => exact ⟨if_congr (decide_eq_true_iff.trans (threshold_lt_iff s 1 0)) rfl rfl, rfl⟩
  | sensor0 => exact ⟨rfl, rfl⟩
  | sensor1 => exact ⟨rfl, rfl⟩

/-! ### The debounce (R207) -/

/-- A changed decision restarts the counter. -/
theorem follow_of_ne {o : OutChan} {r : Bool} (h : r ≠ o.cur) :
    o.follow r = { o with cur := r, cnt := 0 } := if_pos h

/-- An equal decision advances it. -/
theorem follow_of_eq {o : OutChan} {r : Bool} (h : r = o.cur) :
    o.follow r = { o with cnt := satInc o.cnt } := if_neg (not_not.2 h)

/-- The counter half takes the decision over and leaves the stage registers alone. -/
theorem follow_frame (o : OutChan) (r : Bool) : o.follow r = { o with cur := r, cnt := (o.follow r).cnt } := by
  by_cases h : r = o.cur
  · rw [follow_of_eq h, h]
  · rw [follow_of_ne h]

/-- The model's debounce is the one R207 describes: the counter by whether the decision changed, each stage register by
whether the new counter has reached its length. -/
theorem debouncesTo_debounce (n1 n2 : Nat) (o : OutChan) (r : Bool) :
    DebouncesTo n1 n2 o (o.debounce n1 n2 r) r := by
  have hne : r ≠ o.cur → (o.follow r).cnt.toNat = 0 := fun h => by rw [follow_of_ne h]; rfl
  have heq : r = o.cur → (o.follow r).cnt.toNat = min (o.cnt.toNat + 1) 255 := fun h => by
    rw [follow_of_eq h, satInc_toNat]
  unfold OutChan.debounce
  rw [follow_frame]
  exact ⟨rfl, hne, heq, fun h => if_pos h, fun h => if_neg (not_le.2 h), fun h => if_pos h,
    fun h => if_neg (not_le.2 h)⟩

/-! ### The output step (R208) -/

/-- Settles O54: both channels are a decision and its debounce; channel 2's decision reads the ST2[1] that channel 1's
debounce has just written (R206). -/
theorem outputUpdateDecidesAndDebounces : Obligations.OutputUpdateDecidesAndDebounces := by
  intro s hs
  refine ⟨_, exec_outputUpdate_of_loaded s hs, (memRead_addr _ .out).symm, rfl, ?_, ?_⟩
  · exact ⟨_, _, rawDecision1 s, channel1Source_source1 s, decidesTo_decideOutput _ _ _ _ _,
      debouncesTo_debounce _ _ _ _⟩
  · exact ⟨_, decidesTo_decideOutput _ _ _ _ _, debouncesTo_debounce _ _ _ (rawDecision2 (outputStep1 s))⟩

end Sys2Proof.Machine
end

section
/-!
PROOFS. The agents other than the host (60_exceptions.md): the tick (R234).
-/

namespace Sys2Proof.Machine

/-- The saturating increment as R234 writes it, `min(c + 1, 255)`. -/
theorem satInc_eq_ofNat_min (c : Byte) : satInc c = BitVec.ofNat 8 (min (c.toNat + 1) 255) := by
  rw [← satInc_toNat, BitVec.ofNat_toNat, BitVec.setWidth_eq]

/-- A step whose turn is a tick is `Tick()`. -/
theorem step_of_tick (s : State) (rest : List Turn) (h : s.sched = .tick :: rest) :
    step s = .next (State.tick { s with sched := rest }) := by
  rw [step_cons s _ rest h, takeTurn]

/-- Settles O8: the step is `Tick()`, whose only write is TICKS, by the saturating increment. -/
theorem tickSaturates : Obligations.TickSaturates := by
  intro s rest hs
  rw [step_of_tick s rest hs, State.tick, satInc_eq_ofNat_min]

end Sys2Proof.Machine
end

section
/-!
PROOFS. The encoding round trip (30_encoding.md R95, R96): the decoder and the encoder undo each other.
-/

namespace Sys2Proof.Machine

/-! ### Encode, then decode -/

/-- The bit operand of R91 is legal and gives its bit back. -/
theorem classB_ofBool (f : Bool → Instr) (b : Bool) :
    classB f ((BitVec.ofBool b).setWidth 8) = .command (f b) := by
  cases b <;> rfl

/-- An index that fits the operand byte comes back from it. -/
theorem classI_ofNat (f : Nat → Instr) (n : Nat) (h : n < 256) : classI f (BitVec.ofNat 8 n) = .command (f n) := by
  rw [classI, BitVec.toNat_ofNat, Nat.mod_eq_of_lt h]

/-- Settles O1: the encoded word holds the opcode and the operand byte in its two fields, the opcode picks the operand
class, and each class gives the operand back. -/
theorem decodeOfEncode : Obligations.DecodeOfEncode := by
  intro i hi
  unfold decode
  rw [opField_encode, operandField_encode]
  cases i with
  | owWriteBit b => exact classB_ofBool .owWriteBit b
  | select n => exact classI_ofNat .select n (of_decide_eq_true hi)
  | _ => rfl

/-! ### Decode, then encode -/

/-- A class N operand is accepted only as 0. -/
theorem classN_eq_command {i j : Instr} {a : Byte} (h : classN j a = .command i) : i = j ∧ a = 0 := by
  unfold classN at h
  split at h
  case isTrue ha => cases h; exact ⟨rfl, ha⟩
  case isFalse => cases h

/-- A class B operand is accepted only as a bit. -/
theorem classB_eq_command {i : Instr} {f : Bool → Instr} {a : Byte} (h : classB f a = .command i) :
    ∃ b, i = f b ∧ a = (BitVec.ofBool b).setWidth 8 := by
  have hbit : ∀ a : Byte, a.extractLsb' 1 7 = 0#7 → a = (BitVec.ofBool (a.getLsbD 0)).setWidth 8 := by decide
  unfold classB at h
  split at h
  case isTrue ha => cases h; exact ⟨_, rfl, hbit a ha⟩
  case isFalse => cases h

/-- A class V operand is the byte itself. -/
theorem classV_eq_command {i : Instr} {f : Byte → Instr} {a : Byte} (h : classV f a = .command i) : i = f a := by
  cases h; rfl

/-- A class I operand is the value of the byte. -/
theorem classI_eq_command {i : Instr} {f : Nat → Instr} {a : Byte} (h : classI f a = .command i) : i = f a.toNat := by
  cases h; rfl

/-- A word that decodes to a command has that command's opcode and operand byte in its two fields (R90, R92). -/
theorem fields_of_decode (w : Word) (i : Instr) (h : decode w = .command i) :
    opcode i = opField w ∧ operandByte i = operandField w ∧ i.WellFormed := by
  unfold decode at h
  split at h
  case h_3 hop =>
    obtain ⟨b, rfl, ha⟩ := classB_eq_command h
    exact ⟨BitVec.eq_of_toNat_eq hop.symm, ha.symm, rfl⟩
  case h_5 hop | h_8 hop =>
    cases classV_eq_command h
    exact ⟨BitVec.eq_of_toNat_eq hop.symm, rfl, rfl⟩
  case h_12 hop =>
    cases classI_eq_command h
    exact ⟨BitVec.eq_of_toNat_eq hop.symm, (BitVec.ofNat_toNat 8 _).trans (BitVec.setWidth_eq _),
      decide_eq_true (operandField w).isLt⟩
  case h_20 => cases h
  all_goals
    rename_i hop
    obtain ⟨rfl, ha⟩ := classN_eq_command h
    exact ⟨BitVec.eq_of_toNat_eq hop.symm, ha.symm, rfl⟩

/-- Settles O2: a word is its two fields, and those are the command's. -/
theorem encodeOfDecode : Obligations.EncodeOfDecode := by
  intro w i h
  obtain ⟨hop, ha, hwf⟩ := fields_of_decode w i h
  exact ⟨by rw [encode, hop, ha, word_of_fields], hwf⟩

/-- Settles O5: seven words of the table, decoded. -/
theorem tableWordsDecode : Obligations.TableWordsDecode := by
  unfold Obligations.TableWordsDecode
  decide

end Sys2Proof.Machine
end

section
/-!
PROOFS. What each command writes, once for all commands (10_state.md, 30_encoding.md R92), and what follows for the whole
machine: the invariants (R49), the build (R50) and who may change the search state, the directory, the host's registers
and the outputs (R27, R38, R44, R140, R241).
-/

namespace Sys2Proof.Machine

/-! ### The four write sets -/

/-- `t` differs from `s` at most in the line, CRC, PRESENCE, the readings and their history, the clock, ERR and RESULT. -/
def WritesReadings (s t : State) : Prop :=
  t = { s with
    wire := t.wire, crc := t.crc, scratch := t.scratch, sensor := t.sensor, histIdx := t.histIdx
    hoursSeen := t.hoursSeen, sec := t.sec, minute := t.minute, hour := t.hour, leap := t.leap
    err := t.err, presence := t.presence, hourRolled := t.hourRolled, result := t.result }

/-- The same, and the output registers. -/
def WritesOutputs (s t : State) : Prop :=
  t = { s with
    wire := t.wire, crc := t.crc, scratch := t.scratch, sensor := t.sensor, histIdx := t.histIdx
    hoursSeen := t.hoursSeen, sec := t.sec, minute := t.minute, hour := t.hour, leap := t.leap, out := t.out
    err := t.err, presence := t.presence, hourRolled := t.hourRolled, result := t.result }

/-- `t` differs from `s` at most in the search state, the line, CRC, PRESENCE, ERR and RESULT. -/
def WritesSearch (s t : State) : Prop :=
  t = { s with
    wire := t.wire, crc := t.crc, rom := t.rom, ld := t.ld, ldf := t.ldf, found := t.found
    err := t.err, presence := t.presence, result := t.result }

/-- The same, and the directory. -/
def WritesDirectory (s t : State) : Prop :=
  t = { s with
    wire := t.wire, crc := t.crc, rom := t.rom, ld := t.ld, ldf := t.ldf, found := t.found
    dirCount := t.dirCount, dir := t.dir, err := t.err, presence := t.presence, result := t.result }

/-- The end of a command stays in each write set (R231). -/
theorem WritesReadings.finish {s t : State} (h : WritesReadings s t) (e : Err) (r : Word) :
    WritesReadings s (t.finish e r) := by
  unfold WritesReadings at h ⊢
  rw [State.finish, h]

theorem WritesSearch.finish {s t : State} (h : WritesSearch s t) (e : Err) (r : Word) :
    WritesSearch s (t.finish e r) := by
  unfold WritesSearch at h ⊢
  rw [State.finish, h]

theorem WritesDirectory.finish {s t : State} (h : WritesDirectory s t) (e : Err) (r : Word) :
    WritesDirectory s (t.finish e r) := by
  unfold WritesDirectory at h ⊢
  rw [State.finish, h]

/-! ### The commands and their write sets -/

/-- A pass stays in the write set of the search commands. -/
theorem searchPass_writesSearch (s : State) (first : Bool) : WritesSearch s (s.searchPass first).2 := by
  rw [WritesSearch, searchPass_frame]

/-- Storing what was found, and the next pass, stay in the write set of DISCOVER_ALL. -/
theorem searchPass_storeFound_writesDirectory {s u : State} (h : WritesDirectory s u) :
    WritesDirectory s (u.storeFound.searchPass false).2 := by
  unfold WritesDirectory at h ⊢
  rw [searchPass_frame, State.storeFound, h]

/-- So does the whole discovery loop (R150). -/
theorem discover_writesDirectory (s : State) (n : Nat) (r : Err × State) (h : WritesDirectory s r.2) :
    WritesDirectory s (State.discover n r).2 := by
  induction n generalizing r with
  | zero => exact h
  | succ n ih =>
    have hstore : WritesDirectory s r.2.storeFound := by
      unfold WritesDirectory at h ⊢
      rw [State.storeFound, h]
    unfold State.discover
    dsimp only
    split
    · split
      · exact hstore
      · split
        · exact hstore
        · exact ih _ (searchPass_storeFound_writesDirectory h)
    · exact h

/-- ACQUIRE_CYCLE runs the cycle once the setpoints are loaded (R180, R210). -/
theorem exec_acquireCycle_of_loaded (s : State) (h : s.setpointsLoaded = true) :
    exec .acquireCycle s = .next s.cycle := if_pos h

/-- If ACQUIRE_CYCLE completes, the setpoints are loaded and it has run the cycle. -/
theorem exec_acquireCycle_next {s t : State} (h : exec .acquireCycle s = .next t) :
    s.setpointsLoaded = true ∧ t = s.cycle := by
  cases hl : s.setpointsLoaded
  · rw [exec_acquireCycle_of_unloaded s hl] at h; cases h
  · rw [exec_acquireCycle_of_loaded s hl] at h; cases h; exact ⟨rfl, rfl⟩

/-- If OUTPUT_UPDATE completes, the setpoints are loaded and it has run the output step. -/
theorem exec_outputUpdate_next {s t : State} (h : exec .outputUpdate s = .next t) :
    s.setpointsLoaded = true ∧ t = (outputStep s).finish .ok (outWord (outputStep s)) := by
  cases hl : s.setpointsLoaded
  · rw [exec_outputUpdate_of_unloaded s hl] at h; cases h
  · rw [exec_outputUpdate_of_loaded s hl] at h; cases h; exact ⟨rfl, rfl⟩

/-- Everything a completed command can have written, by the group it belongs to. -/
theorem exec_cases {i : Instr} {s t : State} (h : exec i s = .next t) :
    ((i = .searchFirst ∨ i = .searchNext) ∧ WritesSearch s t) ∨
    (i = .discoverAll ∧ WritesDirectory s t) ∨
    ((i = .outputUpdate ∨ i = .acquireCycle) ∧ WritesOutputs s t) ∨
    WritesReadings s t := by
  cases i with
  | searchFirst => cases h; exact .inl ⟨.inl rfl, (searchPass_writesSearch s true).finish _ _⟩
  | searchNext => cases h; exact .inl ⟨.inr rfl, (searchPass_writesSearch s false).finish _ _⟩
  | discoverAll =>
    cases h
    have hpass : WritesDirectory s (s.clearDirectory.searchPass true).2 := by
      rw [WritesDirectory, searchPass_frame]
      rfl
    exact .inr (.inl ⟨rfl, (discover_writesDirectory s s.build.dirCap _ hpass).finish _ _⟩)
  | outputUpdate =>
    obtain ⟨-, rfl⟩ := exec_outputUpdate_next h
    exact .inr (.inr (.inl ⟨.inl rfl, rfl⟩))
  | acquireCycle =>
    obtain ⟨-, rfl⟩ := exec_acquireCycle_next h
    refine .inr (.inr (.inl ⟨.inr rfl, ?_⟩))
    rw [WritesOutputs, cycle_frame]
  | select n =>
    cases h
    have hsel : WritesReadings s (s.selectSlot n).2 := by rw [WritesReadings, selectSlot_frame]
    exact .inr (.inr (.inr (hsel.finish _ _)))
  | startConversions =>
    cases h
    have hconv : WritesReadings s s.startConv.2 := by rw [WritesReadings, (startConv_frame s).2.1]
    exact .inr (.inr (.inr (hconv.finish _ _)))
  | readAll =>
    cases h
    have hread : WritesReadings s s.readChannels := by rw [WritesReadings, readChannels_frame]
    exact .inr (.inr (.inr (hread.finish _ _)))
  | advanceClock =>
    cases h
    have hclock : WritesReadings s s.clockStep := by rw [WritesReadings, clockStep_frame]
    exact .inr (.inr (.inr (hclock.finish _ _)))
  | _ => cases h; exact .inr (.inr (.inr rfl))

/-! ### Who changes what -/

/-- Settles O18: no write set holds a host register, the read data, the schedule or the count of power-ons. -/
theorem commandsNeverWriteHostRegisters : Obligations.CommandsNeverWriteHostRegisters := by
  intro i s t h
  obtain ⟨-, h⟩ | ⟨-, h⟩ | ⟨-, h⟩ | h := exec_cases h <;> rw [h] <;> exact ⟨rfl, rfl, rfl, rfl, rfl, rfl, rfl, rfl⟩

/-- No command changes the build (R50). -/
theorem exec_build {i : Instr} {s t : State} (h : exec i s = .next t) : t.build = s.build := by
  obtain ⟨-, h⟩ | ⟨-, h⟩ | ⟨-, h⟩ | h := exec_cases h <;> rw [h]

/-- Settles O17: only the write set of DISCOVER_ALL holds the directory. -/
theorem onlyDiscoveryChangesDirectory : Obligations.OnlyDiscoveryChangesDirectory := by
  intro i s t h hi
  obtain ⟨-, h⟩ | ⟨rfl, -⟩ | ⟨-, h⟩ | h := exec_cases h
  · rw [h]; exact ⟨rfl, rfl⟩
  · exact absurd rfl hi
  · rw [h]; exact ⟨rfl, rfl⟩
  · rw [h]; exact ⟨rfl, rfl⟩

/-- Only the three commands that search change the search state (R26, R140). -/
theorem exec_searchState {i : Instr} {s t : State} (h : exec i s = .next t) (h1 : i ≠ .searchFirst)
    (h2 : i ≠ .searchNext) (h3 : i ≠ .discoverAll) :
    t.ld = s.ld ∧ t.ldf = s.ldf ∧ t.rom = s.rom ∧ t.found = s.found := by
  obtain ⟨hi | hi, -⟩ | ⟨hi, -⟩ | ⟨-, h⟩ | h := exec_cases h
  · exact absurd hi h1
  · exact absurd hi h2
  · exact absurd hi h3
  · rw [h]; exact ⟨rfl, rfl, rfl, rfl⟩
  · rw [h]; exact ⟨rfl, rfl, rfl, rfl⟩

/-- Only the two commands that run OutputStep change the output registers. -/
theorem exec_out {i : Instr} {s t : State} (h : exec i s = .next t) (h1 : i ≠ .outputUpdate)
    (h2 : i ≠ .acquireCycle) : t.out = s.out := by
  obtain ⟨-, h⟩ | ⟨-, h⟩ | ⟨hi | hi, -⟩ | h := exec_cases h
  · rw [h]
  · rw [h]
  · exact absurd hi h1
  · exact absurd hi h2
  · rw [h]

/-- Settles O16: a turn runs a command, where `exec_searchState` speaks, or writes nothing of the search state; the body
of an automatic cycle is no search. -/
theorem onlySearchChangesSearchState : Obligations.OnlySearchChangesSearchState := by
  refine ⟨fun i s t h h1 h2 h3 => exec_searchState h h1 h2 h3, fun turn s t h hpow h1 h2 h3 => ?_⟩
  obtain ⟨w, i, rfl, hd, hex⟩ | ⟨-, -, -, hex⟩ | ⟨hp, -⟩ | e := takeTurn_cases s t turn h
  · have hne : ∀ j, ¬RunsCommand s (.hostWrite 0x00 w) j → i ≠ j := fun j hj e => hj (.inl ⟨w, rfl, e ▸ hd⟩)
    have key := exec_searchState hex (hne _ h1) (hne _ h2) (hne _ h3)
    exact key
  · have key := exec_searchState hex (by decide) (by decide) (by decide)
    exact key
  · exact absurd hp hpow
  · rw [e]; exact ⟨rfl, rfl, rfl, rfl⟩

/-- The OUT register shows the two stage-1 bits lowest (R62). -/
theorem outWord_pins (s : State) : pinOut1 s = (outWord s).getLsbD 0 ∧ pinOut2 s = (outWord s).getLsbD 1 := by
  have key : ∀ st11 st12 st21 st22 cur1 cur2 : Bool,
      let w : Word := 0#10 ++ BitVec.ofBool cur2 ++ BitVec.ofBool cur1 ++ BitVec.ofBool st22 ++ BitVec.ofBool st21
        ++ BitVec.ofBool st12 ++ BitVec.ofBool st11
      st11 = w.getLsbD 0 ∧ st12 = w.getLsbD 1 := by decide
  exact key _ _ _ _ _ _

/-- Settles O19: a turn runs a command, where `exec_out` speaks, or writes no output register; the pins are bits of the
OUT register. -/
theorem pinsChangeOnlyInOutputStep : Obligations.PinsChangeOnlyInOutputStep := by
  refine ⟨fun i s t h h1 h2 => exec_out h h1 h2, fun turn s t h hpow h1 h2 => ?_, fun s => ?_⟩
  · have hout : t.out = s.out := by
      obtain ⟨w, i, rfl, hd, hex⟩ | ⟨rfl, ha, ht, -⟩ | ⟨hp, -⟩ | e := takeTurn_cases s t turn h
      · have hne : ∀ j, ¬RunsCommand s (.hostWrite 0x00 w) j → i ≠ j := fun j hj e => hj (.inl ⟨w, rfl, e ▸ hd⟩)
        exact (exec_out hex (hne _ h1) (hne _ h2)).trans rfl
      · exact absurd (.inr ⟨rfl, rfl, ha, ht⟩) h2
      · exact absurd hp hpow
      · rw [e]
    exact ⟨hout, congrArg (fun o => o.c1.st1) hout, congrArg (fun o => o.c2.st1) hout⟩
  · rw [show memRead s 0x18 = outWord s from memRead_addr s .out]
    exact outWord_pins s

/-! ### The build (R50) -/

/-- A step is the engine's turn, or one turn taken from the schedule. -/
theorem step_cases (s : State) : step s = engineTurn s ∨ ∃ t rest, step s = takeTurn { s with sched := rest } t := by
  cases hs : s.sched with
  | nil => exact .inl (step_nil s hs)
  | cons t rest => exact .inr ⟨t, rest, step_cons s t rest hs⟩

/-- No turn changes the build. -/
theorem takeTurn_build {s t : State} {turn : Turn} (h : takeTurn s turn = .next t) : t.build = s.build := by
  obtain ⟨w, i, -, -, hex⟩ | ⟨-, -, -, hex⟩ | ⟨-, rfl⟩ | e := takeTurn_cases s t turn h
  · exact (exec_build hex).trans rfl
  · exact (exec_build hex).trans rfl
  · rfl
  · rw [e]

/-- Settles O15: every step is a turn, the engine's own among them. -/
theorem stepKeepsBuild : Obligations.StepKeepsBuild := by
  intro s t h
  obtain e | ⟨turn, rest, e⟩ := step_cases s <;> rw [e] at h
  · exact takeTurn_build (turn := .autoCycle) h
  · exact (takeTurn_build h).trans rfl

end Sys2Proof.Machine
end

section
/-!
PROOFS. The invariants of 10_state.md R49: they hold after power-on, and every turn of every agent keeps them.
-/

namespace Sys2Proof.Machine

/-! ### Power-on -/

/-- An entry of the directory array after power-on, or outside it, is all zero. -/
theorem dirEntry_replicate (s : State) (n i : Nat) (h : s.dir = List.replicate n (Vector.replicate 8 0)) :
    s.dirEntry i = Vector.replicate 8 0 := by
  rw [State.dirEntry, h, List.getD_eq_getElem?_getD, List.getElem?_replicate]
  split <;> rfl

/-- No setpoint is loaded after power-on (R39). -/
theorem powerOn_spLoaded (b : Build) (i : Fin 4) : (State.powerOn b).spLoaded[i] = false :=
  Vector.getElem_replicate i.isLt

/-- Power-on of a valid build has the invariants. -/
theorem powerOn_inv (b : Build) (h : b.Valid) : (State.powerOn b).Inv where
  build := h
  ld := Nat.zero_le _
  ldf := fun _ => rfl
  dirSize := List.length_replicate
  dirCount := Nat.zero_le _
  dirEmpty := fun i _ => dirEntry_replicate _ b.dirCap i rfl
  hoursSeen := Nat.zero_le _
  hour := Nat.zero_le _
  sec := Nat.zero_le _
  minute := Nat.zero_le _
  leap := Nat.zero_le _
  setpoints := fun i hi => absurd (hi.symm.trans (powerOn_spLoaded b i)) (by decide)
  cause0 := iff_of_false Bool.false_ne_true Err.noConfusion
  cause1 := iff_of_false Bool.false_ne_true Err.noConfusion
  line := rfl

/-- Settles O14: power-on has the invariants for every valid build, and the reset state's build is valid. -/
theorem powerOnHasInv : Obligations.PowerOnHasInv :=
  ⟨powerOn_inv, powerOn_inv Config.build (by decide)⟩

/-- Power-on of a block in service has the invariants: the build is the one it had. -/
theorem powerCycle_inv (s : State) (h : s.Inv) : s.powerCycle.Inv :=
  have h0 := powerOn_inv s.build h.build
  inv_of_unchanged (State.powerOn s.build) s.powerCycle h0 rfl rfl rfl rfl rfl h0.ld h0.ldf h0.hoursSeen h0.hour h0.sec
    h0.minute h0.leap h0.cause0 h0.cause1 rfl

/-! ### The ranges of the build (R6) -/

theorem inv_dirCap {s : State} (h : s.Inv) : 1 ≤ s.build.dirCap ∧ s.build.dirCap ≤ 16 := by
  obtain ⟨hlow, hhigh, -⟩ := h.build
  exact ⟨hlow, hhigh⟩

theorem inv_leapPeriod {s : State} (h : s.Inv) : 1 ≤ s.build.leapPeriod := by
  obtain ⟨-, -, -, -, -, hperiod⟩ := h.build
  exact hperiod

/-! ### Commands that reach only the line and the readings -/

/-- A state that differs in the line, CRC, SCRATCH, the readings, the history slots, the outputs, the flags and the agents'
data keeps the invariants if its readings and its line do. -/
theorem inv_of_readings {s t : State} (h : s.Inv)
    (e : t = { s with
      wire := t.wire, crc := t.crc, scratch := t.scratch, sensor := t.sensor, out := t.out, auto := t.auto
      ticks := t.ticks, err := t.err, presence := t.presence, result := t.result, lastCmd := t.lastCmd
      sched := t.sched, readData := t.readData })
    (cause0 : t.sensor.s0.CauseAgrees) (cause1 : t.sensor.s1.CauseAgrees) (line : t.wire.drv = false) : t.Inv := by
  refine inv_of_unchanged s t h ?_ ?_ ?_ ?_ ?_ ?_ ?_ ?_ ?_ ?_ ?_ ?_ cause0 cause1 line <;> rw [e]
  exacts [h.ld, h.ldf, h.hoursSeen, h.hour, h.sec, h.minute, h.leap]

/-- An accepted reading is valid with cause OK, a rejected one is invalid with another cause (R173). -/
theorem causeAgrees_of_judged {f : SensorChan → SensorChan} (c : SensorChan)
    (h : (∃ t, f = SensorChan.accept t) ∨ ∃ e, e ≠ Err.ok ∧ f = SensorChan.reject e) : (f c).CauseAgrees := by
  obtain ⟨t, rfl⟩ | ⟨e, he, rfl⟩ := h
  · exact iff_of_true rfl rfl
  · exact iff_of_false Bool.false_ne_true he

/-- Widening the history keeps VALID and CAUSE. -/
theorem widen_causeAgrees {c : SensorChan} (idx : Fin 24) (h : c.CauseAgrees) : (c.widen idx).CauseAgrees := by
  rw [widen_frame]
  exact h

/-- After READ_ALL's reads VALID and CAUSE agree on both channels. -/
theorem readChannels_causeAgrees (s : State) (ch : Sensor) : (s.readChannels.sensor.get ch).CauseAgrees := by
  obtain ⟨f, e, hf, -⟩ := readChannels_get s ch
  rw [e]
  exact causeAgrees_of_judged _ hf

/-- After a cycle VALID and CAUSE agree on both channels. -/
theorem cycle_causeAgrees (s : State) (ch : Sensor) : (s.cycle.sensor.get ch).CauseAgrees := by
  obtain ⟨f, e, hf⟩ := acquireData_get s ch
  obtain ⟨-, hvalid, hcause⟩ := cycle_get s ch
  unfold SensorChan.CauseAgrees
  rw [hvalid, hcause, e]
  exact causeAgrees_of_judged _ hf

/-! ### The history index (R177) -/

/-- The index and HOURS_SEEN after the clock part of a cycle. -/
theorem clockAndRoll_index (s : State) :
    (s.clockStep.hourRolled = true →
      s.clockAndRoll.histIdx = s.histIdx + 1 ∧ s.clockAndRoll.hoursSeen = min (s.hoursSeen + 1) 23) ∧
    (s.clockStep.hourRolled = false →
      s.clockAndRoll.histIdx = s.histIdx ∧ s.clockAndRoll.hoursSeen = s.hoursSeen) := by
  have hkeep : s.clockStep.histIdx = s.histIdx ∧ s.clockStep.hoursSeen = s.hoursSeen := by
    rw [clockStep_frame]; exact ⟨rfl, rfl⟩
  rw [clockAndRoll_eq]
  constructor
  · intro h
    rw [if_pos h, hourRoll_histIdx, hourRoll_hoursSeen, hkeep.1, hkeep.2]
    exact ⟨rfl, rfl⟩
  · intro h
    rw [if_neg (by simp [h])]
    exact hkeep

/-- The state in which a cycle's clock part starts has the cycle's clock, index and HOURS_SEEN. -/
theorem acquired_index (s : State) :
    (outputStep s.acquireData.2.minMax).histIdx = s.histIdx ∧
    (outputStep s.acquireData.2.minMax).hoursSeen = s.hoursSeen ∧
    (outputStep s.acquireData.2.minMax).clockStep.hourRolled = s.clockStep.hourRolled := by
  have h := acquireData_frame s
  obtain ⟨-, -, -, -, hroll⟩ := clockStep_congr (s := s) (u := outputStep s.acquireData.2.minMax)
    (by rw [h]; rfl) (by rw [h]; rfl) (by rw [h]; rfl) (by rw [h]; rfl) (by rw [h]; rfl)
  refine ⟨?_, ?_, hroll⟩ <;> rw [h] <;> rfl

/-- A cycle is its data part, the history, the outputs and the clock, then ERR and RESULT (R180). -/
theorem cycle_eq (s : State) :
    s.cycle = (outputStep s.acquireData.2.minMax).clockAndRoll.finish s.acquireData.1
      (validBits (outputStep s.acquireData.2.minMax).clockAndRoll) := by
  rw [State.cycle]

/-- The index and HOURS_SEEN after a cycle: they roll exactly when the hour does (R180). -/
theorem cycle_index (s : State) :
    (s.clockStep.hourRolled = true → s.cycle.histIdx = s.histIdx + 1 ∧ s.cycle.hoursSeen = min (s.hoursSeen + 1) 23) ∧
    (s.clockStep.hourRolled = false → s.cycle.histIdx = s.histIdx ∧ s.cycle.hoursSeen = s.hoursSeen) := by
  obtain ⟨hidx, hseen, hroll⟩ := acquired_index s
  have h := clockAndRoll_index (outputStep s.acquireData.2.minMax)
  rw [hidx, hseen, hroll] at h
  rw [cycle_eq, finish_histIdx, finish_hoursSeen]
  exact h

/-! ### The directory (R28, R150) -/

/-- The array has DIR_CAP entries, and those from DIRCOUNT on are zero. -/
structure DirectoryInv (s : State) : Prop where
  size : s.dir.length = s.build.dirCap
  count : s.dirCount ≤ s.build.dirCap
  empty : ∀ i, s.dirCount ≤ i → s.dirEntry i = Vector.replicate 8 0

/-- An emptied directory. -/
theorem clearDirectory_inv (s : State) : DirectoryInv s.clearDirectory where
  size := List.length_replicate
  count := Nat.zero_le _
  empty := fun i _ => dirEntry_replicate _ s.build.dirCap i rfl

/-- A pass does not touch the directory. -/
theorem searchPass_directoryInv {s : State} (h : DirectoryInv s) (first : Bool) :
    DirectoryInv (s.searchPass first).2 := by
  obtain ⟨hsize, hcount, hempty⟩ := h
  constructor
  · rwa [searchPass_dir, searchPass_build]
  · rwa [searchPass_dirCount, searchPass_build]
  · rw [searchPass_dirCount]
    simpa only [State.dirEntry, searchPass_dir] using hempty

/-- A found address goes into the first free entry. -/
theorem storeFound_directoryInv {s : State} (h : DirectoryInv s) (hroom : s.dirCount < s.build.dirCap) :
    DirectoryInv s.storeFound where
  size := by rw [storeFound_dir, List.length_set, storeFound_build, h.size]
  count := hroom
  empty := by
    intro i hi
    have hi : s.dirCount + 1 ≤ i := hi
    rw [storeFound_dirEntry s (h.size ▸ hroom), if_neg (by omega)]
    exact h.empty i (by omega)

/-! ### Discovery -/

/-- What a pass of the discovery loop leaves besides the directory: LD, LDF and the line in range. -/
def SearchInv (s : State) : Prop := s.ld ≤ 64 ∧ (s.ldf = true → s.ld = 0) ∧ s.wire.drv = false

/-- Every pass leaves the search state in range (R146, R147). -/
theorem searchPass_searchInv (s : State) (first : Bool) (h : s.wire.drv = false) :
    SearchInv (s.searchPass first).2 := by
  have hdrv := searchPass_drv s first h
  obtain ⟨-, -, -, hld, hldf⟩ | ⟨-, -, -, hld, hldf⟩ := searchPass_result s first
  · exact ⟨hld, hldf.1, hdrv⟩
  · exact ⟨by rw [hld]; decide, fun _ => hld, hdrv⟩

/-- DISCOVER_ALL's loop keeps the directory and the search state in range (R150). -/
theorem discover_inv (s : State) (hcap : 1 ≤ s.build.dirCap) (hline : s.wire.drv = false) :
    DirectoryInv (State.discover s.build.dirCap (s.clearDirectory.searchPass true)).2 ∧
      SearchInv (State.discover s.build.dirCap (s.clearDirectory.searchPass true)).2 := by
  refine discover_induct
    (fun _ u => DirectoryInv u ∧ SearchInv u ∧ u.dirCount < u.build.dirCap) (fun _ u => DirectoryInv u ∧ SearchInv u)
    ?failed ?last ?full ?more s.build.dirCap _ ⟨?_, ?_, ?_⟩ ?_ hcap
  case failed => exact fun e u ⟨hd, hs, _⟩ _ => ⟨hd, hs⟩
  case last => exact fun u ⟨hd, hs, hroom⟩ _ => ⟨storeFound_directoryInv hd hroom, hs⟩
  case full => exact fun u ⟨hd, hs, hroom⟩ _ _ => ⟨storeFound_directoryInv hd hroom, hs⟩
  case more =>
    intro u ⟨hd, ⟨_, _, hdrv⟩, hroom⟩ _ hnotFull
    refine ⟨searchPass_directoryInv (storeFound_directoryInv hd hroom) false, searchPass_searchInv _ false hdrv, ?_⟩
    rw [searchPass_dirCount, searchPass_build, storeFound_dirCount, storeFound_build]
    omega
  · exact searchPass_directoryInv (clearDirectory_inv s) true
  · exact searchPass_searchInv _ true hline
  · rw [searchPass_dirCount, searchPass_build]
    exact hcap
  · rw [searchPass_dirCount, searchPass_build]
    exact Nat.zero_add _

/-! ### Every command -/

/-- A search command keeps the invariants. -/
theorem searchPass_inv {s : State} (h : s.Inv) (first : Bool) (e : Err) (r : Word) :
    ((s.searchPass first).2.finish e r).Inv := by
  obtain ⟨hld, hldf, hdrv⟩ := searchPass_searchInv s first h.line
  rw [searchPass_frame] at *
  exact inv_of_unchanged s _ h rfl rfl rfl rfl rfl hld hldf h.hoursSeen h.hour h.sec h.minute h.leap h.cause0 h.cause1 hdrv

/-- DISCOVER_ALL keeps the invariants. -/
theorem discover_keeps_inv {s : State} (h : s.Inv) (e : Err) (r : Word) :
    ((State.discover s.build.dirCap (s.clearDirectory.searchPass true)).2.finish e r).Inv := by
  obtain ⟨⟨hsize, hcount, hempty⟩, hld, hldf, hdrv⟩ := discover_inv s (inv_dirCap h).1 h.line
  have hpass : WritesDirectory s (s.clearDirectory.searchPass true).2 := by
    rw [WritesDirectory, searchPass_frame]
    rfl
  have hw := discover_writesDirectory s s.build.dirCap _ hpass
  generalize (State.discover s.build.dirCap (s.clearDirectory.searchPass true)).2 = u at *
  rw [hw] at hsize hcount ⊢
  exact
    { h with
      ld := hld, ldf := hldf, dirSize := hsize, dirCount := hcount, line := hdrv
      dirEmpty := fun i hi => hempty i hi }

/-- A clock step keeps the invariants. -/
theorem clockStep_inv {s : State} (h : s.Inv) : s.clockStep.Inv := by
  obtain ⟨hsec, hmin, hhour, hleap⟩ := clockStep_range s h.sec h.minute h.leap (inv_leapPeriod h) h.hour
  rw [clockStep_frame]
  exact inv_of_unchanged s _ h rfl rfl rfl rfl rfl h.ld h.ldf h.hoursSeen hhour hsec hmin hleap h.cause0 h.cause1 h.line

/-- A cycle keeps the invariants. -/
theorem cycle_inv {s : State} (h : s.Inv) : s.cycle.Inv := by
  obtain ⟨hsec, hmin, hhour, hleap⟩ := clockStep_range s h.sec h.minute h.leap (inv_leapPeriod h) h.hour
  have hseen : s.cycle.hoursSeen ≤ 23 := by
    obtain ⟨hroll, hkeep⟩ := cycle_index s
    cases hr : s.clockStep.hourRolled
    · rw [(hkeep hr).2]; exact h.hoursSeen
    · rw [(hroll hr).2]; exact min_le_right _ _
  have h0 := cycle_causeAgrees s .s0
  have h1 := cycle_causeAgrees s .s1
  have hdrv := acquireData_drv s
  rw [cycle_frame] at *
  exact inv_of_unchanged s _ h rfl rfl rfl rfl rfl h.ld h.ldf hseen hhour hsec hmin hleap h0 h1 hdrv

/-- Every command keeps the invariants. -/
theorem exec_inv {i : Instr} {s t : State} (h : s.Inv) (hex : exec i s = .next t) : t.Inv := by
  cases i with
  | searchFirst => cases hex; exact searchPass_inv h true _ _
  | searchNext => cases hex; exact searchPass_inv h false _ _
  | discoverAll => cases hex; exact discover_keeps_inv h _ _
  | select n =>
    cases hex
    refine inv_of_readings h ?_ ?_ ?_ (selectSlot_drv s n h.line)
    all_goals dsimp only; rw [selectSlot_frame]
    exacts [rfl, h.cause0, h.cause1]
  | startConversions =>
    cases hex
    obtain ⟨-, hframe, hdrv⟩ := startConv_frame s
    refine inv_of_readings h ?_ ?_ ?_ hdrv
    all_goals dsimp only; rw [hframe]
    exacts [rfl, h.cause0, h.cause1]
  | readAll =>
    cases hex
    refine inv_of_readings h ?_ (readChannels_causeAgrees s .s0) (readChannels_causeAgrees s .s1)
      (readChannels_drv s h.line)
    dsimp only
    rw [readChannels_frame]
    rfl
  | updateMinmax =>
    cases hex
    exact inv_of_readings h rfl (widen_causeAgrees _ h.cause0) (widen_causeAgrees _ h.cause1) h.line
  | advanceClock =>
    cases hex
    have hc := clockStep_inv h
    exact inv_of_readings hc rfl hc.cause0 hc.cause1 hc.line
  | hourRolled =>
    cases hex
    exact inv_of_unchanged s _ h rfl rfl rfl rfl rfl h.ld h.ldf (min_le_right _ _) h.hour h.sec h.minute h.leap h.cause0
      h.cause1 h.line
  | acquireCycle =>
    obtain ⟨-, rfl⟩ := exec_acquireCycle_next hex
    exact cycle_inv h
  | outputUpdate =>
    obtain ⟨-, rfl⟩ := exec_outputUpdate_next hex
    exact inv_of_readings h rfl h.cause0 h.cause1 h.line
  | owWriteByte v => cases hex; exact inv_of_readings h rfl h.cause0 h.cause1 (writeByte_drv s.wire v)
  | owReadByte => cases hex; exact inv_of_readings h rfl h.cause0 h.cause1 (readByte_drv s.wire)
  | nop | crcClear | crcUpdate v => cases hex; exact inv_of_readings h rfl h.cause0 h.cause1 h.line
  | owReset | owWriteBit b | owReadBit => cases hex; exact inv_of_readings h rfl h.cause0 h.cause1 rfl

/-! ### Register writes -/

/-- A setpoint write stores a value in range (R68). -/
theorem writeSetpoint_inv {s : State} (h : s.Inv) (i : Fin 4) (v : Word) : (writeSetpoint s i v).Inv :=
  { h with
    setpoints := by
      intro j
      show (s.spLoaded.set i true)[j] = true → setpointLow j ≤ ((s.sp.set i (clampSetpoint i v.toInt))[j]).toInt ∧
        ((s.sp.set i (clampSetpoint i v.toInt))[j]).toInt ≤ 100
      by_cases hij : i = j
      · subst hij
        intro _
        have hlow : setpointLow i ≤ 100 := by unfold setpointLow; split <;> decide
        simp only [Fin.getElem_fin, Vector.getElem_set_self, clampSetpoint_toInt]
        exact ⟨le_min (le_max_right _ _) hlow, min_le_right _ _⟩
      · have hne : i.val ≠ j.val := fun e => hij (Fin.ext e)
        simp only [Fin.getElem_fin, Vector.getElem_set_ne _ _ hne]
        exact h.setpoints j }

/-- Every register write but CMD's keeps the invariants. -/
theorem writeRegister_inv {s : State} (h : s.Inv) (a : Byte) (v : Word) : (writeRegister s a v).Inv := by
  unfold writeRegister
  split
  case h_1 => exact inv_of_readings h rfl h.cause0 h.cause1 h.line
  case h_2 | h_3 | h_4 | h_5 => exact writeSetpoint_inv h _ v
  all_goals exact h

/-! ### Every turn -/

/-- A state with another schedule. -/
theorem inv_sched {s : State} (h : s.Inv) (rest : List Turn) : ({ s with sched := rest } : State).Inv :=
  inv_of_readings h rfl h.cause0 h.cause1 h.line

/-- A write of CMD keeps the invariants, whatever the word decodes to. -/
theorem writeCommand_inv {s t : State} (h : s.Inv) (v : Word) (hw : writeCommand s v = .next t) : t.Inv := by
  have hcmd : ({ s with lastCmd := v } : State).Inv := inv_of_readings h rfl h.cause0 h.cause1 h.line
  unfold writeCommand at hw
  split at hw
  · exact exec_inv hcmd hw
  · cases hw; exact inv_of_readings h rfl h.cause0 h.cause1 h.line
  · cases hw; exact inv_of_readings h rfl h.cause0 h.cause1 h.line

/-- The engine's turn keeps the invariants: an automatic cycle is ACQUIRE_CYCLE after TICKS is cleared (R235). -/
theorem engineTurn_inv {s t : State} (h : s.Inv) (he : engineTurn s = .next t) : t.Inv := by
  have hticks : ({ s with ticks := 0 } : State).Inv := inv_of_readings h rfl h.cause0 h.cause1 h.line
  unfold engineTurn at he
  split at he
  · exact exec_inv (i := .acquireCycle) hticks he
  · cases he; exact h

/-- Every turn of every agent keeps the invariants. -/
theorem takeTurn_inv {s t : State} (h : s.Inv) {turn : Turn} (ht : takeTurn s turn = .next t) : t.Inv := by
  cases turn with
  | hostRead a => cases ht; exact inv_of_readings h rfl h.cause0 h.cause1 h.line
  | hostWrite a v =>
    change memWrite s a v = .next t at ht
    by_cases ha : a = 0x00
    · subst ha
      exact writeCommand_inv h v ht
    · rw [memWrite_other s a v ha] at ht
      cases ht
      exact writeRegister_inv h a v
  | tick => cases ht; exact inv_of_readings h rfl h.cause0 h.cause1 h.line
  | autoCycle => exact engineTurn_inv h ht
  | powerOn => cases ht; exact powerCycle_inv s h
  | busChange e => cases ht; exact inv_of_readings h rfl h.cause0 h.cause1 h.line

/-- Settles O13: a step is the engine's turn or a turn of the schedule, and both keep the invariants. -/
theorem stepKeepsInv : Obligations.StepKeepsInv := by
  intro s t h hstep
  obtain e | ⟨turn, rest, e⟩ := step_cases s <;> rw [e] at hstep
  · exact engineTurn_inv h hstep
  · exact takeTurn_inv (inv_sched h rest) hstep

end Sys2Proof.Machine
end

section
/-!
PROOFS. The agents (60_exceptions.md): host reads (R79), the automatic cycle (R235), the idle engine (R261), power-on
(R260), and that only commands and cycles reach the bus (R117).
-/

namespace Sys2Proof.Machine

/-! ### Host reads (R79) -/

/-- A read does not depend on the schedule and the read data. -/
theorem memRead_outside (s : State) (rest : List Turn) (d : Word) (a : Byte) :
    memRead { s with sched := rest, readData := d } a = memRead s a := by
  unfold memRead
  cases locate a with
  | reg r => cases r <;> rfl
  | _ => rfl

/-- Settles O7: the step records the register's value, and no register shows the schedule or the record. -/
theorem hostReadsHaveNoSideEffect : Obligations.HostReadsHaveNoSideEffect := by
  intro s a rest hs
  refine ⟨_, ?_, rfl, memRead_outside s rest _⟩
  rw [step_cons s _ rest hs]
  exact congrArg (fun d => Host.Outcome.next { s with sched := rest, readData := d }) (memRead_outside s rest s.readData a)

/-! ### The engine's turn (R235) -/

/-- An enabled automatic cycle is ACQUIRE_CYCLE after TICKS is cleared. -/
theorem engineTurn_of_enabled (s : State) (ha : s.auto = true) (ht : s.ticks ≠ 0) :
    engineTurn s = exec .acquireCycle { s with ticks := 0 } :=
  if_pos (by rw [State.autoEnabled, ha, decide_eq_true ht]; rfl)

/-- With AUTO = 0 or TICKS = 0 the engine's turn does nothing (log 5). -/
theorem engineTurn_of_idle (s : State) (h : s.auto = false ∨ s.ticks = 0) : engineTurn s = .next s :=
  if_neg (by simpa [State.autoEnabled, imp_iff_not_or] using h)

/-- Settles O9: the turn is the engine's, and a completed cycle leaves TICKS, LASTCMD and the schedule alone. -/
theorem automaticCycle : Obligations.AutomaticCycle := by
  intro s rest hs
  have hstep : step s = engineTurn { s with sched := rest } := step_cons s _ rest hs
  rw [hstep]
  refine ⟨fun ha ht => engineTurn_of_enabled _ ha ht, fun ha ht hl =>
    ⟨State.cycle { s with sched := rest, ticks := 0 }, ?_, ?_⟩, fun h => engineTurn_of_idle _ h⟩
  · exact (engineTurn_of_enabled { s with sched := rest } ha ht).trans (exec_acquireCycle_of_loaded _ hl)
  · rw [cycle_frame]
    exact ⟨rfl, rfl, rfl⟩

/-! ### Ticks (R234, R261) -/

/-- One step of a run. -/
theorem run_succ {s t : Sys2Proof.core.State} (n : Nat) (h : Sys2Proof.core.step s = .next t) :
    Sys2Proof.core.run (n + 1) s = Sys2Proof.core.run n t := by
  rw [Host.Core.run, h]

/-- `n` ticks add `n` to TICKS, saturating, and change nothing else. -/
theorem run_ticks (n : Nat) (s : State) (hs : s.sched = List.replicate n .tick) :
    Sys2Proof.core.run n s = .next { s with sched := [], ticks := BitVec.ofNat 8 (min (s.ticks.toNat + n) 255) } := by
  induction n generalizing s with
  | zero =>
    have hticks : BitVec.ofNat 8 (min (s.ticks.toNat + 0) 255) = s.ticks := by
      rw [Nat.add_zero, min_eq_left (by omega), BitVec.ofNat_toNat, BitVec.setWidth_eq]
    rw [hticks, ← show s.sched = [] from hs]
    rfl
  | succ n ih =>
    have hval : min ((satInc s.ticks).toNat + n) 255 = min (s.ticks.toNat + (n + 1)) 255 := by
      rw [satInc_toNat]; omega
    rw [run_succ n (step_of_tick s (List.replicate n .tick) hs), ih _ rfl, ← hval]
    rfl

/-- Settles O10: the engine is idle because AUTO = 0, and the ticks are `run_ticks` from TICKS = 0. -/
theorem idleAfterPowerOn : Obligations.IdleAfterPowerOn := by
  intro b n
  constructor
  · rw [step_nil _ rfl]
    exact engineTurn_of_idle _ (.inl rfl)
  · refine (run_ticks n _ rfl).trans ?_
    show Host.Outcome.next { State.powerOn b with ticks := BitVec.ofNat 8 (min (0 + n) 255) } = _
    rw [Nat.zero_add]
    rfl

/-! ### Power-on (R260) -/

/-- A history slot after power-on holds the sentinels (R33). -/
theorem sensorChan_powerOn_hist (k : Fin 24) : SensorChan.powerOn.hist[k] = { lo := 0x7FFF, hi := 0x8000 } :=
  Vector.getElem_replicate k.isLt

/-- Settles O11: the step is power-on, whose fields are the reset values. -/
theorem powerOnResetsTheBlockOnly : Obligations.PowerOnResetsTheBlockOnly := by
  intro s rest hs
  refine ⟨_, step_cons s _ rest hs, rfl, rfl, romBit_zero, rfl, rfl, rfl, rfl, List.length_replicate, fun i p => ?_,
    rfl, rfl, rfl, rfl, rfl, rfl, fun k => ⟨sensorChan_powerOn_hist k, sensorChan_powerOn_hist k⟩, rfl, rfl, rfl, rfl,
    rfl, rfl, powerOn_spLoaded s.build, ?_, rfl, rfl, rfl, rfl, rfl, rfl, rfl, rfl, rfl⟩
  · rw [dirEntry_replicate _ s.build.dirCap i rfl, romBit_zero]
  · intro o ho
    have ho : o = OutChan.powerOn := by simpa [State.powerCycle, State.powerOn] using ho
    rw [ho]
    exact ⟨rfl, rfl, rfl, rfl⟩

/-! ### The bus between commands (R117) -/

/-- Settles O12: of the turns only a command word and an enabled cycle reach the bus, and both are excluded. -/
theorem noBusActivityBetweenCommands : Obligations.NoBusActivityBetweenCommands := by
  intro s t turn h hcmd hauto
  obtain ⟨w, i, hw, -, -⟩ | ⟨hturn, ha, ht, -⟩ | ⟨-, rfl⟩ | e := takeTurn_cases s t turn h
  · exact absurd hw (hcmd w)
  · obtain ha' | ht' := hauto hturn
    · exact absurd (ha.symm.trans ha') (by decide)
    · exact absurd ht' ht
  · rfl
  · rw [e]

end Sys2Proof.Machine
end

section
/-!
PROOFS. Registers as numbers (20_memory.md): the setpoints (R68) and the packed registers (R62, R66).
-/

namespace Sys2Proof.Machine

/-! ### Setpoints (R68) -/

/-- The two spellings of a setpoint's lower end. -/
theorem setpointFloor_eq_setpointLow (i : Fin 4) : setpointFloor i = setpointLow i := by
  revert i; decide

/-- A write of a setpoint register. -/
theorem memWrite_setpoint (s : State) (i : Fin 4) (v : Word) :
    memWrite s (0x14 + BitVec.ofNat 8 i.val) v = .next (writeSetpoint s i v) := by
  match i with
  | 0 | 1 | 2 | 3 => rfl

/-- A read of a setpoint register. -/
theorem memRead_setpoint (s : State) (i : Fin 4) :
    memRead s (0x14 + BitVec.ofNat 8 i.val) = readSetpoint s i := by
  match i with
  | 0 | 1 | 2 | 3 => rfl

/-- A read of a setpoint is a signed byte: the setpoint, or before its load a clamped value (log 6). -/
theorem readSetpoint_toInt (s : State) (i : Fin 4) :
    (readSetpoint s i).toInt =
      if s.spLoaded[i] then s.sp[i].toInt
      else min (max (Config.unloadedSetpoint s.powerOns i).toInt (setpointLow i)) 100 := by
  unfold readSetpoint
  split
  · exact BitVec.toInt_signExtend_of_le (by decide)
  · rw [BitVec.toInt_signExtend_of_le (by decide), clampSetpoint_toInt]

/-- Settles O24: the write stores the clamp at its own index, and the read is the signed byte. -/
theorem setpointRegistersClamp : Obligations.SetpointRegistersClamp := by
  intro s i v
  rw [setpointFloor_eq_setpointLow, memRead_setpoint, readSetpoint_toInt]
  refine ⟨⟨_, memWrite_setpoint s i v, rfl, ?_, ?_, fun j hj => ?_⟩, fun h => if_pos h, fun h => ?_⟩
  · simp [writeSetpoint, clampSetpoint_toInt]
  · simp [writeSetpoint]
  · have hne : i.val ≠ j.val := fun e => hj (Fin.ext e.symm)
    exact ⟨Vector.getElem_set_ne i.isLt j.isLt hne, Vector.getElem_set_ne i.isLt j.isLt hne⟩
  · have hlow : setpointLow i ≤ 100 := by unfold setpointLow; split <;> decide
    rw [if_neg (by simp [h])]
    exact ⟨le_min (le_max_right _ _) hlow, min_le_right _ _⟩

/-! ### Packed registers (R62) -/

/-- The value of two fields put together. -/
theorem toNat_fields {m n : Nat} (x : BitVec m) (y : BitVec n) : (x ++ y).toNat = 2 ^ n * x.toNat + y.toNat := by
  rw [BitVec.toNat_append, ← Nat.shiftLeft_add_eq_or_of_lt y.isLt, Nat.shiftLeft_eq, Nat.mul_comm]

/-- STATUS (R62). -/
theorem statusWord_toNat (s : State) :
    (statusWord s).toNat =
      s.err.code.toNat + 16 * s.presence.toNat + 32 * s.found.toNat + 64 * s.hourRolled.toNat := by
  simp only [statusWord, toNat_fields, BitVec.toNat_ofBool, BitVec.toNat_ofNat]
  omega

/-- SEARCH (R62). -/
theorem searchWord_toNat (s : State) (h : s.ld ≤ 64) : (searchWord s).toNat = s.ld + 256 * s.ldf.toNat := by
  simp only [searchWord, toNat_fields, BitVec.toNat_ofBool, BitVec.toNat_ofNat]
  omega

/-- VALID (R62). -/
theorem validWord_toNat (s : State) :
    (validWord s).toNat = s.sensor.s0.valid.toNat + 2 * s.sensor.s1.valid.toNat +
      256 * s.sensor.s0.cause.code.toNat + 4096 * s.sensor.s1.cause.code.toNat := by
  simp only [validWord, toNat_fields, BitVec.toNat_ofBool, BitVec.toNat_ofNat]
  omega

/-- OUT (R62). -/
theorem outWord_toNat (s : State) :
    (outWord s).toNat = s.out.c1.st1.toNat + 2 * s.out.c2.st1.toNat + 4 * s.out.c1.st2.toNat +
      8 * s.out.c2.st2.toNat + 16 * s.out.c1.cur.toNat + 32 * s.out.c2.cur.toNat := by
  simp only [outWord, toNat_fields, BitVec.toNat_ofBool, BitVec.toNat_ofNat]
  omega

/-- CNT (R62). -/
theorem cntWord_toNat (s : State) : (cntWord s).toNat = s.out.c1.cnt.toNat + 256 * s.out.c2.cnt.toNat := by
  rw [cntWord, toNat_word, Nat.add_comm]

/-- A number in an `n`-bit place of a register. -/
theorem toNat_setWidth_ofNat (n x : Nat) (hn : n ≤ 16) : ((BitVec.ofNat n x).setWidth 16).toNat = x % 2 ^ n := by
  rw [BitVec.toNat_setWidth_of_le hn, BitVec.toNat_ofNat]

/-- The four ROM registers (R71). -/
theorem memRead_rom (s : State) (k : Fin 4) :
    memRead s (0x06 + BitVec.ofNat 8 k.val) = addressWord s.rom k.val := by
  match k with
  | 0 | 1 | 2 | 3 => rfl

/-- Settles O25: each register's own value; the invariants keep the counters inside their places. -/
theorem packedRegistersShowTheirFields : Obligations.PackedRegistersShowTheirFields := by
  intro s h
  have hld := h.ld
  have hseen := h.hoursSeen
  have hhour := h.hour
  have hsec := h.sec
  have hmin := h.minute
  have hidx := s.histIdx.isLt
  have hcount : s.dirCount ≤ 16 := h.dirCount.trans (inv_dirCap h).2
  have hread : ∀ r : RegName, memRead s r.addr = readReg s r := memRead_addr s
  refine ⟨(congrArg _ (hread .status)).trans (statusWord_toNat s), hread .result,
    (congrArg _ (hread .crc)).trans (BitVec.toNat_setWidth_of_le (by decide)),
    (congrArg _ (hread .search)).trans (searchWord_toNat s hld),
    fun k => by rw [memRead_rom, addressWord_toNat],
    (congrArg _ (hread .dirCount)).trans ?_,
    (congrArg _ (hread .ticks)).trans (BitVec.toNat_setWidth_of_le (by decide)), hread .temp0, hread .temp1,
    (congrArg _ (hread .valid)).trans (validWord_toNat s), (congrArg _ (hread .out)).trans (outWord_toNat s),
    (congrArg _ (hread .cnt)).trans (cntWord_toNat s), (congrArg _ (hread .sec)).trans ?_,
    (congrArg _ (hread .minute)).trans ?_, (congrArg _ (hread .hour)).trans ?_,
    (congrArg _ (hread .hoursSeen)).trans ?_, (congrArg _ (hread .histIdx)).trans ?_,
    (congrArg _ (hread .leap)).trans (toNat_setWidth_ofNat 8 s.leap (by decide))⟩
  all_goals
    rw [readReg, toNat_setWidth_ofNat _ _ (by decide)]
    exact Nat.mod_eq_of_lt (by omega)

end Sys2Proof.Machine
end

section
/-!
PROOFS. The bus commands (40_bus_primitives.md R119-R125): what a reset, a write and a read command leave, with their
slots on the bus.
-/

namespace Sys2Proof.Machine

/-- A flag as a RESULT word. -/
theorem zextBool_eq (b : Bool) : zextBool b = if b then 1 else 0 := by cases b <;> rfl

/-- Settles O28: the reset's own equation, with the two values its presence bit chooses. -/
theorem owResetReportsPresence : Obligations.OwResetReportsPresence := by
  intro s
  refine ⟨!s.wire.env.presenceLevel s.wire.trace, _, rfl, rfl, ?_⟩
  rw [← zextBool_eq]
  rfl

/-- Settles O29: a bit is one write slot, and a byte its eight (`writeByte_trace_writeSlots`). -/
theorem writeCommandsSendTheirSlots : Obligations.WriteCommandsSendTheirSlots :=
  fun s => ⟨fun _ => ⟨_, rfl, rfl, rfl, rfl⟩,
    fun v => ⟨_, rfl, writeByte_trace_writeSlots s.wire v, writeByte_drv s.wire v, rfl⟩⟩

/-! ### Read slots -/

/-- The first read slots of a byte, from its bits. -/
theorem map_read_take_byteBits (v : Byte) (k : Nat) (h : k ≤ 8) :
    ((byteBits v).take k).map BusEvent.read = readSlots v k := by
  rw [byteBits_eq_range, ← List.map_take, List.take_range, min_eq_left h, List.map_map]
  rfl

/-- All eight read slots of a byte, from its bits. -/
theorem map_read_byteBits (v : Byte) : (byteBits v).map BusEvent.read = readSlots v 8 :=
  map_read_take_byteBits v 8 (le_refl 8)

/-- A bit of a byte, from the list of its bits. -/
theorem byteBits_getElem? (v : Byte) (k : Nat) (h : k < 8) : (byteBits v)[k]? = some (v.getLsbD k) := by
  rw [byteBits_eq_range, List.getElem?_map, List.getElem?_range h]
  rfl

/-- Each bit of a byte read is the level sampled after the slots before it (R114, R116, R118). -/
theorem readByte_getLsbD (w : Wire) (k : Nat) (h : k < 8) :
    w.readByte.1.getLsbD k =
      ((readSlots w.readByte.1 k).foldl BusEnv.after w.env).readLevel ((readSlots w.readByte.1 k).reverse ++ w.trace) := by
  have hbit := readBits_bit 8 w k h
  rw [← byteBits_readByte, byteBits_getElem? _ k h, map_read_take_byteBits _ k h.le] at hbit
  exact Option.some.inj hbit

/-- An empty bus stays empty. -/
theorem foldl_after_empty (evs : List BusEvent) : evs.foldl BusEnv.after (.devices []) = .devices [] := by
  induction evs with
  | nil => rfl
  | cons ev evs ih => exact ih

/-- An empty bus reads 0xFF. -/
theorem readByte_empty (w : Wire) (h : w.env = .devices []) : w.readByte.1 = 0xFF := by
  apply BitVec.eq_of_getLsbD_eq
  intro k hk
  have hones : ∀ k : Fin 8, (0xFF : Byte).getLsbD k.val = true := by decide
  rw [readByte_getLsbD w k hk, h, foldl_after_empty, hones ⟨k, hk⟩]
  rfl

/-- Settles O30: the bit read is the level sampled, and a byte's bits are those of its eight slots. -/
theorem readCommandsReturnTheBitsRead : Obligations.ReadCommandsReturnTheBitsRead := by
  intro s
  constructor
  · exact ⟨_, s.wire.env.readLevel s.wire.trace, rfl, rfl, zextBool_toNat _, rfl, rfl, rfl, rfl, fun h => by rw [h]; rfl⟩
  · refine ⟨_, s.wire.readByte.1, rfl, BitVec.toNat_setWidth_of_le (by decide), byteBits_readByte s.wire,
      readByte_getLsbD s.wire, ?_, ?_, readByte_drv s.wire, rfl, readByte_empty s.wire⟩
    · rw [← map_read_byteBits]
      exact readByte_trace s.wire
    · rw [← map_read_byteBits]
      exact readByte_env s.wire

end Sys2Proof.Machine
end

section
/-!
PROOFS. The CRC (40_bus_primitives.md R120, R121) and the host program CRC_CHECK (30_encoding.md R98).
-/

namespace Sys2Proof.Machine

/-! ### The two register forms (R120) -/

/-- The bit reverse turns a right shift into a left shift. -/
theorem bitrev8_ushiftRight_one (a : Byte) : bitrev8 (a >>> 1) = bitrev8 a <<< 1 := by
  apply BitVec.eq_of_getLsbD_eq
  intro k hk
  rw [getLsbD_bitrev8 _ _ hk, BitVec.getLsbD_ushiftRight, BitVec.getLsbD_shiftLeft]
  cases k with
  | zero => simp
  | succ k =>
    rw [Nat.add_sub_cancel, getLsbD_bitrev8 _ _ (by omega), show 1 + (7 - (k + 1)) = 7 - k by omega]
    simp [hk]

/-- One bit folded in the one form is the bit reverse of the same bit folded in the other: the tested bits and the
polynomials are each other's reverse. -/
theorem crcBit_bitrev8 (a : Byte) (b : Bool) : crcBit .msb31 (bitrev8 a) b = bitrev8 (crcBit .lsb8c a b) := by
  have hpoly : (0x31 : Byte) = bitrev8 0x8C := by decide
  simp only [crcBit]
  rw [getLsbD_bitrev8 a 7 (by decide), ← bitrev8_ushiftRight_one, hpoly, ← bitrev8_xor, Nat.sub_self,
    ← apply_ite bitrev8]

/-- So is a sequence of bits. -/
theorem foldl_crcBit_bitrev8 (bs : List Bool) (a : Byte) :
    bs.foldl (crcBit .msb31) (bitrev8 a) = bitrev8 (bs.foldl (crcBit .lsb8c) a) := by
  induction bs generalizing a with
  | nil => rfl
  | cons b bs ih => rw [List.foldl_cons, crcBit_bitrev8, ih, List.foldl_cons]

/-- Settles O32: a byte is a sequence of bits. -/
theorem crcFormsAreBitReverses : Obligations.CrcFormsAreBitReverses :=
  fun a b => foldl_crcBit_bitrev8 (byteBits b) a

/-- A message folded in the one form is the bit reverse of the same message folded in the other. -/
theorem crcFold_bitrev8 (m : List Byte) (a : Byte) :
    crcFold .msb31 (bitrev8 a) m = bitrev8 (crcFold .lsb8c a m) := by
  induction m generalizing a with
  | nil => rfl
  | cons v m ih => rw [crcFold_cons, crcFormsAreBitReverses, ih, crcFold_cons]

/-- The on-wire CRC byte is the bit reverse of the MSB31 register. -/
theorem crcFold_lsb8c_zero (m : List Byte) : crcFold .lsb8c 0 m = bitrev8 (crcFold .msb31 0 m) := by
  have h := crcFold_bitrev8 m 0
  rw [show bitrev8 0 = 0 from rfl] at h
  rw [h, bitrev8_bitrev8]

/-! ### The residue (R121) -/

/-- The bit reverse of a byte is 0 only for 0. -/
theorem bitrev8_eq_zero_iff (a : Byte) : bitrev8 a = 0 ↔ a = 0 := by
  constructor
  · intro h
    rw [← bitrev8_bitrev8 a, h]
    rfl
  · rintro rfl
    rfl

/-- A bit equal to the accumulator's lowest one only shifts it, so the accumulator's own bits shift it out. -/
theorem foldl_crcBit_lsb8c_own (b : Byte) (n : Nat) :
    ((List.range n).map (fun i => b.getLsbD i)).foldl (crcBit .lsb8c) b = b >>> n := by
  induction n with
  | zero => simp
  | succ n ih =>
    rw [List.range_succ, List.map_append, List.foldl_append, ih]
    simp [crcBit, BitVec.shiftRight_add]

/-- A byte equal to the accumulator folds it to 0. -/
theorem crcStep_lsb8c_self (b : Byte) : crcStep .lsb8c b b = 0 := by
  rw [crcStep, byteBits_eq_range, foldl_crcBit_lsb8c_own]
  exact BitVec.ushiftRight_eq_zero (le_refl 8)

/-- Zero bits fold only the accumulator 0 to 0. -/
theorem foldl_crcBit_lsb8c_zeros (n : Nat) (a : Byte) (h : (List.replicate n false).foldl (crcBit .lsb8c) a = 0) :
    a = 0 := by
  have hbit : ∀ a : Byte, crcBit .lsb8c a false = 0 → a = 0 := by decide
  induction n generalizing a with
  | zero => exact h
  | succ n ih => exact hbit a (ih _ h)

/-- In the LSB8C form the one final byte that checks is the accumulator: by linearity the fold depends on their
difference only. -/
theorem crcStep_lsb8c_eq_zero_iff (a b : Byte) : crcStep .lsb8c a b = 0 ↔ b = a := by
  have hdiff : crcStep .lsb8c a b = crcStep .lsb8c (a ^^^ b) 0 := by
    have h := crcStep_xor .lsb8c (a ^^^ b) b 0 b
    simpa [BitVec.xor_assoc, crcStep_lsb8c_self] using h
  constructor
  · intro h
    rw [hdiff] at h
    exact (BitVec.xor_eq_zero_iff.1 (foldl_crcBit_lsb8c_zeros 8 _ h)).symm
  · rintro rfl
    exact crcStep_lsb8c_self b

/-- In the MSB31 form it is the accumulator's bit reverse. -/
theorem crcStep_msb31_eq_zero_iff (a b : Byte) : crcStep .msb31 a b = 0 ↔ b = bitrev8 a := by
  rw [← bitrev8_bitrev8 a, crcFormsAreBitReverses, bitrev8_eq_zero_iff, crcStep_lsb8c_eq_zero_iff, bitrev8_bitrev8]

/-- In both forms the one final byte that checks is the on-wire CRC byte of the message before it. -/
theorem crcFold_append_eq_zero_iff (form : CrcForm) (m : List Byte) (c : Byte) :
    crcFold form 0 (m ++ [c]) = 0 ↔ c = crcFold .lsb8c 0 m := by
  rw [crcFold_append, crcFold_cons, crcFold_nil]
  cases form with
  | msb31 => rw [crcStep_msb31_eq_zero_iff, crcFold_lsb8c_zero]
  | lsb8c => exact crcStep_lsb8c_eq_zero_iff _ _

/-- A message of zeros folds to 0. -/
theorem crcFold_replicate_zero (form : CrcForm) (n : Nat) : crcFold form 0 (List.replicate n 0) = 0 := by
  have hzero : crcStep form 0 0 = 0 := by cases form <;> rfl
  induction n with
  | zero => rfl
  | succ n ih => rw [List.replicate_succ, crcFold_cons, hzero, ih]

/-- Settles O33: the final byte of each form, the two forms against each other, and the message of zeros. -/
theorem crcResidue : Obligations.CrcResidue :=
  ⟨fun a b => ⟨crcStep_msb31_eq_zero_iff a b, crcStep_lsb8c_eq_zero_iff a b⟩,
    fun form m => (crcFold_append_eq_zero_iff form m _).2 rfl, crcFold_lsb8c_zero, crcFold_replicate_zero⟩

/-! ### CRC_CHECK (R98) -/

/-- A step whose turn is an assembled command runs it (R65, R97). -/
theorem step_of_cmdTurn (s : State) (i : Instr) (rest : List Turn) (hi : i.WellFormed)
    (h : s.sched = cmdTurn i :: rest) : step s = exec i { s with sched := rest, lastCmd := encode i } := by
  rw [step_of_commandWrite s (encode i) rest h, writeCommand_of_command _ _ i (decodeOfEncode i hi)]

/-- RESULT shows CRC, and ERR is OK. -/
def ShowsCrc (s : State) : Prop := s.err = .ok ∧ s.result = s.crc.setWidth 16

/-- A run of CRC_UPDATE commands folds their bytes into CRC, shows it and leaves the line alone. -/
theorem run_crcUpdates (vs : List Byte) (s : State) (hs : s.sched = vs.map (fun v => cmdTurn (.crcUpdate v)))
    (hshow : ShowsCrc s) :
    ∃ t, Sys2Proof.core.run vs.length s = .next t ∧ t.crc = crcFold s.build.crcForm s.crc vs ∧ ShowsCrc t ∧
      t.wire = s.wire ∧ t.sched = [] := by
  induction vs generalizing s with
  | nil => exact ⟨s, rfl, rfl, hshow, rfl, hs⟩
  | cons v vs ih =>
    have hstep := step_of_cmdTurn s (.crcUpdate v) _ rfl hs
    rw [exec_crcUpdate] at hstep
    obtain ⟨t, hrun, hcrc, ht⟩ := ih
      { s with
        sched := vs.map (fun v => cmdTurn (.crcUpdate v)), lastCmd := encode (.crcUpdate v)
        crc := crcStep s.build.crcForm s.crc v, err := .ok, result := (crcStep s.build.crcForm s.crc v).setWidth 16 }
      rfl ⟨rfl, rfl⟩
    exact ⟨t, (run_succ vs.length hstep).trans hrun, hcrc, ht⟩

/-- Settles O34: CRC_CLEAR starts the fold at 0, the updates fold the bytes, and the residue is 0 exactly for the correct
CRC byte. -/
theorem crcCheckProgram : Obligations.CrcCheckProgram := by
  intro s m c hs
  have hstep := step_of_cmdTurn s .crcClear _ rfl hs
  rw [exec_crcClear] at hstep
  obtain ⟨t, hrun, hcrc, ⟨herr, hresult⟩, hwire, hsched⟩ := run_crcUpdates (m ++ [c])
    { s with
      sched := (m ++ [c]).map (fun v => cmdTurn (.crcUpdate v)), lastCmd := encode .crcClear
      crc := 0, err := .ok, result := 0 } rfl ⟨rfl, rfl⟩
  rw [List.length_append, List.length_singleton] at hrun
  refine ⟨t, (run_succ (m.length + 1) hstep).trans hrun, ?_, hwire, herr, hsched⟩
  rw [← crcFold_append_eq_zero_iff s.build.crcForm m c, ← show t.crc = crcFold s.build.crcForm 0 (m ++ [c]) from hcrc,
    hresult]
  constructor
  · intro h
    apply BitVec.eq_of_toNat_eq
    rw [← BitVec.toNat_setWidth_of_le (by decide : 8 ≤ 16), h]
    rfl
  · intro h
    rw [h]
    rfl

end Sys2Proof.Machine
end

section
/-!
PROOFS. The search commands (41_search_directory.md R147-R149): completion, the failing passes, and the fresh start after
the last device.
-/

namespace Sys2Proof.Machine

/-- A search command's next state: its pass, then ERR and RESULT (R148, R149). -/
def State.searched (s : State) (first : Bool) : State :=
  (s.searchPass first).2.finish (s.searchPass first).1 (zextBool (s.searchPass first).2.found)

theorem exec_searchFirst (s : State) : exec .searchFirst s = .next (s.searched true) := rfl

theorem exec_searchNext (s : State) : exec .searchNext s = .next (s.searched false) := rfl

@[simp] theorem searched_build (s : State) (first : Bool) : (s.searched first).build = s.build := by
  rw [State.searched, finish_build, searchPass_build]

/-- Settles O35: a search command is its pass (`searchPass_frame`), and FOUND tells whether it ended OK. -/
theorem searchCommandsComplete : Obligations.SearchCommandsComplete := by
  intro s first
  refine ⟨_, exec_searchCommand s first, zextBool_toNat _, ?_, ?_⟩
  · obtain ⟨hok, hfound, -⟩ | ⟨herr, -, hfound, -⟩ := searchPass_result s first
    · exact iff_of_true hfound hok
    · refine iff_of_false (by simp [hfound]) fun hok => ?_
      rw [show (s.searchPass first).1 = .ok from hok] at herr
      exact absurd herr (by decide)
  · rw [searchPass_frame]
    rfl

/-! ### Failing passes (R147) -/

/-- The bus events of a pass that stops where no device answers: those before the position, then the two read slots. -/
theorem passWalk_noDevice (s : State) (first : Bool) (hp : s.wire.env.presenceLevel s.wire.trace = false)
    (h : (s.passWalk first).1 = false) :
    ∃ (p : Nat) (evs : List BusEvent), 1 ≤ p ∧ p ≤ 64 ∧ (s.passWalk first).2.wire.trace = evs.reverse ++ s.wire.trace ∧
      evs.length = 11 + 3 * (p - 1) ∧ evs[9 + 3 * (p - 1)]? = some (.read true) ∧
      evs[10 + 3 * (p - 1)]? = some (.read true) ∧
      ∀ q, p ≤ q → q ≤ 64 → romBit (s.passWalk first).2.rom q = romBit s.rom q := by
  obtain ⟨m, evs, hm, hlen, htrace, hrom⟩ := positions_false s.build.crcForm (ldAtStart first s) 64 1
    { wire := s.wire.reset.2.writeByte s.build.cmdSearch, rom := s.rom, crc := 0, lastZero := 0 }
    (by decide) (by decide) h
  have hpre : (BusEvent.reset true :: writeSlots s.build.cmdSearch ++ evs).length = 9 + 3 * m := by
    simp [writeSlots, hlen]
    omega
  refine ⟨m + 1, (.reset true :: writeSlots s.build.cmdSearch ++ evs) ++ [.read true, .read true], by omega, by omega,
    htrace.trans ?_, ?_, ?_, ?_, fun q hq => hrom q (by omega)⟩
  · rw [reset_writeByte_trace _ _ hp]
    simp
  · rw [List.length_append, hpre, Nat.add_sub_cancel]
    simp
    omega
  · rw [Nat.add_sub_cancel, List.getElem?_append_right (by omega), hpre, Nat.sub_self]
    rfl
  · rw [Nat.add_sub_cancel, List.getElem?_append_right (by omega), hpre, show 10 + 3 * m - (9 + 3 * m) = 1 by omega]
    rfl

/-- Settles O36: the failing ends of a pass, one by one; each abandons the search. -/
theorem failedPassResetsSearchState : Obligations.FailedPassResetsSearchState := by
  intro s t first hex herr
  rw [exec_searchCommand] at hex
  cases hex
  obtain ⟨hfirst, hldf, e⟩ | ⟨-, hp, e⟩ | ⟨-, hp, e⟩ := searchPass_cases s first
  · rw [e]
    exact ⟨rfl, rfl, rfl, Err.noConfusion, fun _ => ⟨hfirst, hldf, rfl, rfl, rfl⟩, Err.noConfusion, Err.noConfusion⟩
  · rw [e]
    have hevents : BusEvents s (s.busReset.2.abandonSearch) [.reset false] := by
      rw [BusEvents, abandonSearch_wire, busReset_wire, reset_snd, hp]
      rfl
    exact ⟨rfl, rfl, rfl, fun _ => ⟨rfl, rfl, hevents⟩, Err.noConfusion, Err.noConfusion, Err.noConfusion⟩
  · obtain ⟨hw, e'⟩ | ⟨-, hcrc, e'⟩ | ⟨-, -, e'⟩ := endPass_cases (s.passStart first) (s.passWalk first)
    · rw [e, e']
      exact ⟨rfl, rfl, rfl, Err.noConfusion, Err.noConfusion, fun _ => passWalk_noDevice s first hp hw, Err.noConfusion⟩
    · rw [e, e']
      exact ⟨rfl, rfl, rfl, Err.noConfusion, Err.noConfusion, Err.noConfusion, fun _ => hcrc⟩
    · rw [e, e'] at herr
      exact absurd rfl herr

/-! ### After the last device (R149) -/

/-- A pass that starts with LD = 0 and LDF = 0 is a first pass. -/
theorem searchPass_of_fresh (s : State) (hld : s.ld = 0) (hldf : s.ldf = false) :
    s.searchPass false = s.searchPass true := by
  have hs : ({ s with ld := 0, ldf := false } : State) = s := by rw [← hld, ← hldf]
  calc s.searchPass false = State.searchPass { s with ld := 0, ldf := false } false := by rw [hs]
    _ = s.searchPass true := rfl

/-- Settles O37: the exhausted pass is `abandonSearch`, which leaves LD = 0 and LDF = 0. -/
theorem exhaustedSearchStartsOver : Obligations.ExhaustedSearchStartsOver := by
  intro s hldf
  have hpass : s.searchPass false = (.searchExhausted, s.abandonSearch) := if_pos hldf
  refine ⟨_, ?_, rfl, ?_⟩
  · rw [exec_searchNext, State.searched, hpass]
    rfl
  · rw [exec_searchNext, exec_searchFirst, State.searched, State.searched, searchPass_of_fresh _ rfl rfl]

end Sys2Proof.Machine
end

section
/-!
PROOFS. The error codes of every command (60_exceptions.md R233).
-/

namespace Sys2Proof.Machine

/-- The codes of a pass that cannot be exhausted: "find first", or LDF = 0 (R148). -/
theorem searchPass_err (s : State) (first : Bool) (h : first = true ∨ s.ldf = false) :
    (s.searchPass first).1 ∈ allowedErrors .searchFirst := by
  obtain ⟨hfirst, hldf, -⟩ | ⟨-, -, e⟩ | ⟨-, -, e⟩ := searchPass_cases s first
  · rcases h with h | h
    · exact absurd (h.symm.trans hfirst) (by decide)
    · exact absurd (h.symm.trans hldf) (by decide)
  · rw [e]; simp [allowedErrors]
  · rw [e]
    obtain ⟨-, e'⟩ | ⟨-, -, e'⟩ | ⟨-, -, e'⟩ := endPass_cases (s.passStart first) (s.passWalk first) <;> rw [e'] <;>
      simp [allowedErrors]

/-- The codes of the discovery loop (R150): a pass's own, or a full directory. -/
theorem discover_err (n : Nat) (r : Err × State) (h : r.1 ∈ allowedErrors .searchFirst) :
    (State.discover n r).1 ∈ allowedErrors .discoverAll := by
  have hpass : ∀ e ∈ allowedErrors .searchFirst, e ∈ allowedErrors .discoverAll := by decide
  induction n generalizing r with
  | zero => exact hpass _ h
  | succ n ih =>
    unfold State.discover
    dsimp only
    split
    · split
      · simp [allowedErrors]
      · rename_i hldf
        split
        · simp [allowedErrors]
        · exact ih _ (searchPass_err _ false (.inr (by simpa using hldf)))
    · exact hpass _ h

/-- The causes both reads can leave in a channel (R173). -/
theorem readChannels_cause (s : State) (ch : Sensor) :
    (s.dirCount ≤ ch.slot → (s.readChannels.sensor.get ch).cause = .invalidReading) ∧
    (ch.slot < s.dirCount → (s.readChannels.sensor.get ch).cause ∈ [Err.ok, .busTimeout, .checksumMismatch]) := by
  obtain ⟨f, e, -, hnone, hsome⟩ := readChannels_get s ch
  rw [e]
  constructor
  · intro h
    rw [hnone h]
    rfl
  · intro h
    obtain ⟨t, hf⟩ | hf | hf := hsome h <;> rw [hf] <;> simp [SensorChan.accept, SensorChan.reject]

/-- The code of READ_ALL is the cause of one of the channels (R174). -/
theorem readChannels_readErr (s : State) : readErr s.readChannels ∈ allowedErrors .readAll := by
  have hcause : ∀ ch, (s.readChannels.sensor.get ch).cause ∈ allowedErrors .readAll := by
    intro ch
    obtain ⟨hnone, hsome⟩ := readChannels_cause s ch
    rcases Nat.lt_or_ge ch.slot s.dirCount with h | h
    · exact (by decide : ∀ e ∈ [Err.ok, .busTimeout, .checksumMismatch], e ∈ allowedErrors .readAll) _ (hsome h)
    · rw [hnone h]; decide
  unfold readErr
  split
  · exact hcause .s1
  · exact hcause .s0

/-- The two codes a presence sample chooses between (R119, R172). -/
theorem presenceErr_mem (p : Bool) : presenceErr p ∈ [Err.ok, .busTimeout] := by cases p <;> decide

/-- Settles O20: the codes of each command's own operation; the commands without one end OK. -/
theorem commandsWriteTheirErrorCodes : Obligations.CommandsWriteTheirErrorCodes := by
  intro i s t h
  cases i with
  | owReset => cases h; exact presenceErr_mem _
  | startConversions => cases h; exact presenceErr_mem _
  | searchFirst => cases h; exact searchPass_err s true (.inl rfl)
  | searchNext =>
    cases h
    obtain ⟨hok, -⟩ | ⟨herr, -⟩ := searchPass_result s false
    · rw [finish_err, hok]; decide
    · exact List.mem_cons_of_mem _ herr
  | discoverAll => cases h; exact discover_err _ _ (searchPass_err _ true (.inl rfl))
  | select n => cases h; exact selectSlot_err s n
  | readAll => cases h; exact readChannels_readErr s
  | acquireCycle =>
    obtain ⟨-, rfl⟩ := exec_acquireCycle_next h
    show s.acquireData.1 ∈ allowedErrors .acquireCycle
    obtain ⟨-, e⟩ | ⟨-, e⟩ := acquireData_cases s <;> rw [e]
    · simp [allowedErrors]
    · exact readChannels_readErr _
  | outputUpdate =>
    obtain ⟨-, rfl⟩ := exec_outputUpdate_next h
    exact List.mem_singleton_self _
  | _ => cases h; exact List.mem_singleton_self _

end Sys2Proof.Machine
end

section
/-!
PROOFS. Search passes on a bus whose answers are known: the line stuck low (R267), one reference device (R148) and two
(R153, R154).
-/

namespace Sys2Proof.Machine

/-! ### A walk with known answers -/

/-- The pairs `(b q, cb q)` that a bus answers at the positions of a walk whose directions are `d`; `env q` describes the
environment before position `q`. -/
structure AnswersWalk (env : Nat → BusEnv → Prop) (b cb d : Nat → Bool) : Prop where
  bit : ∀ q e tr, 1 ≤ q → q ≤ 64 → env q e → e.readLevel tr = b q
  complement : ∀ q e tr, 1 ≤ q → q ≤ 64 → env q e → (e.after (.read (b q))).readLevel tr = cb q
  next : ∀ q e, 1 ≤ q → q ≤ 64 → env q e →
    env (q + 1) (((e.after (.read (b q))).after (.read (cb q))).after (.write (d q)))
  answered : ∀ q, 1 ≤ q → q ≤ 64 → ¬(b q = true ∧ cb q = true)

/-- `z` is the highest of the `n` positions from `p` on at which `zero` holds, or `z0` if there is none (R144). -/
def IsLastZero (zero : Nat → Prop) (n p z0 z : Nat) : Prop :=
  (∀ q, p ≤ q → q < p + n → z < q → ¬zero q) ∧ (z = z0 ∨ (p ≤ z ∧ z < p + n ∧ zero z))

/-- The highest zero choice, the first position taken off. -/
theorem isLastZero_succ {zero : Nat → Prop} {n p z0 z1 z : Nat} (h : IsLastZero zero n (p + 1) z1 z)
    (hz1 : (zero p ∧ z1 = p) ∨ (¬zero p ∧ z1 = z0)) : IsLastZero zero (n + 1) p z0 z := by
  obtain ⟨hhigh, hz⟩ := h
  constructor
  · intro q hq hq' hlt
    rcases Nat.eq_or_lt_of_le hq with rfl | hq
    · rcases hz1 with ⟨-, rfl⟩ | ⟨hp, -⟩
      · omega
      · exact hp
    · exact hhigh q hq (by omega) hlt
  · rcases hz with rfl | ⟨h1, h2, h3⟩
    · rcases hz1 with ⟨hp, rfl⟩ | ⟨-, rfl⟩
      · exact .inr ⟨le_refl _, by omega, hp⟩
      · exact .inl rfl
    · exact .inr ⟨by omega, by omega, h3⟩

/-- A walk on such a bus is answered throughout; ROM takes the directions, and the last zero choice is the highest
(R141-R144). -/
theorem positions_answered {env : Nat → BusEnv → Prop} {b cb d : Nat → Bool} (ha : AnswersWalk env b cb d)
    (form : CrcForm) (ld n p : Nat) (w : Walk) (hp : 1 ≤ p) (hn : p + n ≤ 65) (henv : env p w.wire.env)
    (hd : ∀ q, p ≤ q → q < p + n → searchDirection w.rom ld q (b q) (cb q) = d q) :
    (Walk.positions form ld n p w).1 = true ∧ env (p + n) (Walk.positions form ld n p w).2.wire.env ∧
      (∀ q, p ≤ q → q < p + n → romBit (Walk.positions form ld n p w).2.rom q = d q) ∧
      (∀ q, 1 ≤ q → q < p → romBit (Walk.positions form ld n p w).2.rom q = romBit w.rom q) ∧
      IsLastZero (fun q => b q = cb q ∧ d q = false) n p w.lastZero (Walk.positions form ld n p w).2.lastZero := by
  induction n generalizing p w with
  | zero =>
    exact ⟨rfl, henv, fun q h1 h2 => absurd h2 (by omega), fun _ _ _ => rfl, fun q h1 h2 => absurd h2 (by omega), .inl rfl⟩
  | succ n ih =>
    have hb := ha.bit p w.wire.env w.wire.trace hp (by omega) henv
    have hcb := fun tr => ha.complement p w.wire.env tr hp (by omega) henv
    have hdp := hd p (le_refl p) (by omega)
    have hpos : w.position form ld p = (true, w.take form ld p (b p) (cb p) w.wire.readBit.2.readBit.2) := by
      obtain ⟨x, y, hx, hy, ⟨hx1, hy1, -⟩ | ⟨-, e⟩⟩ := position_cases form ld p w
      · rw [readBit_snd] at hy
        dsimp only at hy
        rw [hb] at hx hy
        rw [hcb] at hy
        exact absurd ⟨hx.symm.trans hx1, hy.symm.trans hy1⟩ (ha.answered p hp (by omega))
      · rw [readBit_snd] at hy
        dsimp only at hy
        rw [hb] at hx hy
        rw [e, hx, hy, hcb]
    have hstep : Walk.positions form ld (n + 1) p w =
        Walk.positions form ld n (p + 1) (w.take form ld p (b p) (cb p) w.wire.readBit.2.readBit.2) := by
      rw [Walk.positions, hpos]
      rfl
    have hother : ∀ q, 1 ≤ q → q ≤ 64 → q ≠ p →
        romBit (w.take form ld p (b p) (cb p) w.wire.readBit.2.readBit.2).rom q = romBit w.rom q := fun q h1 h2 hne => by
      rw [take_rom, romBit_setRomBit _ _ _ _ hp (by omega) h1 h2, if_neg hne]
    have henv' : env (p + 1) (w.take form ld p (b p) (cb p) w.wire.readBit.2.readBit.2).wire.env := by
      have hnext := ha.next p w.wire.env hp (by omega) henv
      rw [take_wire, hdp]
      simpa only [writeBit_eq, readBit_snd, hb, hcb] using hnext
    obtain ⟨h1, h2, h3, h4, h5⟩ := ih (p + 1) _ (by omega) (by omega) henv' (fun q hq hq' => by
      rw [searchDirection_congr _ w.rom ld q _ _ (hother q (by omega) (by omega) (by omega))]
      exact hd q (by omega) (by omega))
    rw [hstep]
    refine ⟨h1, by rw [show p + (n + 1) = p + 1 + n by omega]; exact h2, fun q hq hq' => ?_, fun q hq hq' => ?_, ?_⟩
    · rcases Nat.eq_or_lt_of_le hq with rfl | hq
      · rw [h4 p hp (by omega), take_rom, romBit_setRomBit _ _ _ _ hp (by omega) hp (by omega), if_pos rfl, hdp]
      · exact h3 q hq (by omega)
    · rw [h4 q hq (by omega), hother q hq (by omega) (by omega)]
    · refine isLastZero_succ h5 ?_
      rw [take_lastZero, hdp]
      split
      · exact .inl ⟨‹_›, rfl⟩
      · exact .inr ⟨‹_›, rfl⟩

/-- The walk of a pass on such a bus finds the address `r` that the directions make up. -/
theorem passWalk_answered {env : Nat → BusEnv → Prop} {b cb d : Nat → Bool} (ha : AnswersWalk env b cb d)
    (s : State) (first : Bool) (r : Address) (henv : env 1 (s.wire.reset.2.writeByte s.build.cmdSearch).env)
    (hd : ∀ q, 1 ≤ q → q ≤ 64 → searchDirection s.rom (ldAtStart first s) q (b q) (cb q) = d q)
    (hr : ∀ q, 1 ≤ q → q ≤ 64 → romBit r q = d q) :
    (s.passWalk first).1 = true ∧ (s.passWalk first).2.rom = r ∧ env 65 (s.passWalk first).2.wire.env ∧
      IsLastZero (fun q => b q = cb q ∧ d q = false) 64 1 0 (s.passWalk first).2.lastZero := by
  obtain ⟨hw, henv', hrom, -, hzero⟩ := positions_answered ha s.build.crcForm (ldAtStart first s) 64 1
    { wire := s.wire.reset.2.writeByte s.build.cmdSearch, rom := s.rom, crc := 0, lastZero := 0 }
    (le_refl 1) (le_refl 65) henv (fun q h1 h2 => hd q h1 (by omega))
  exact ⟨hw, address_ext fun q h1 h2 => (hrom q h1 (by omega)).trans (hr q h1 h2).symm, henv', hzero⟩

/-- A pass on such a bus, after a reset that saw presence, ends OK exactly if the address it finds checks (R145). -/
theorem searchPass_answered {env : Nat → BusEnv → Prop} {b cb d : Nat → Bool} (ha : AnswersWalk env b cb d)
    (s : State) (first : Bool) (r : Address) (hpass : first = true ∨ s.ldf = false)
    (hpres : s.wire.env.presenceLevel s.wire.trace = false)
    (henv : env 1 (s.wire.reset.2.writeByte s.build.cmdSearch).env)
    (hd : ∀ q, 1 ≤ q → q ≤ 64 → searchDirection s.rom (ldAtStart first s) q (b q) (cb q) = d q)
    (hr : ∀ q, 1 ≤ q → q ≤ 64 → romBit r q = d q) :
    (AddressChecks s.build.crcForm r → (s.searchPass first).1 = .ok ∧ (s.searchPass first).2.rom = r ∧
      env 65 (s.searchPass first).2.wire.env ∧
      IsLastZero (fun q => b q = cb q ∧ d q = false) 64 1 0 (s.searchPass first).2.ld) ∧
    (¬AddressChecks s.build.crcForm r → (s.searchPass first).1 = .checksumMismatch) := by
  obtain ⟨hw, hfound, henv', hzero⟩ := passWalk_answered ha s first r henv hd hr
  have hcrc := passWalk_crc s first hw
  rw [hfound] at hcrc
  obtain ⟨hfirst, hldf, -⟩ | ⟨-, hp, -⟩ | ⟨-, -, e⟩ := searchPass_cases s first
  · rcases hpass with h | h
    · exact absurd (h.symm.trans hfirst) (by decide)
    · exact absurd (h.symm.trans hldf) (by decide)
  · exact absurd (hpres.symm.trans hp) (by decide)
  · obtain ⟨hw', -⟩ | ⟨-, hc, e'⟩ | ⟨-, hc, e'⟩ := endPass_cases (s.passStart first) (s.passWalk first)
    · exact absurd (hw.symm.trans hw') (by decide)
    · rw [e, e']
      exact ⟨fun h => absurd (hcrc.trans h) hc, fun _ => rfl⟩
    · rw [e, e']
      exact ⟨fun _ => ⟨rfl, hfound, henv', hzero⟩, fun h => absurd (hcrc.symm.trans hc) h⟩

/-! ### The line stuck low (R267) -/

/-- A stuck line answers every position with a discrepancy, whatever the directions. -/
theorem held_answersWalk (d : Nat → Bool) :
    AnswersWalk (fun _ e => e = .held) (fun _ => false) (fun _ => false) d where
  bit := fun q e tr _ _ h => by rw [h]; rfl
  complement := fun q e tr _ _ h => by rw [h]; rfl
  next := fun q e _ _ h => by rw [h]; rfl
  answered := fun q _ _ h => absurd h.1 (by decide)

/-- A pass on a stuck line takes the discrepancy direction at every position. -/
theorem searchPass_held (s : State) (first : Bool) (r : Address) (h : s.wire.env = .held)
    (hpass : first = true ∨ s.ldf = false)
    (hr : ∀ q, 1 ≤ q → q ≤ 64 → romBit r q = discrepancyDirection s.rom (ldAtStart first s) q) :
    (AddressChecks s.build.crcForm r → (s.searchPass first).1 = .ok ∧ (s.searchPass first).2.rom = r ∧
      (s.searchPass first).2.wire.env = .held ∧
      IsLastZero (fun q => discrepancyDirection s.rom (ldAtStart first s) q = false) 64 1 0
        (s.searchPass first).2.ld) ∧
    (¬AddressChecks s.build.crcForm r → (s.searchPass first).1 = .checksumMismatch) := by
  have key := searchPass_answered (held_answersWalk (discrepancyDirection s.rom (ldAtStart first s))) s first r hpass
    (by rw [h]; rfl) (writeByte_env_held _ _ (by rw [reset_snd, h]; rfl)) (fun _ _ _ => rfl) hr
  simpa only [true_and] using key

/-- The address of all zeros. -/
def zeroAddress : Address := Vector.replicate 8 0

/-- It checks in both forms (R121). -/
theorem zeroAddress_checks (form : CrcForm) : AddressChecks form zeroAddress := by
  rw [AddressChecks, zeroAddress, Vector.toList_replicate]
  exact crcFold_replicate_zero form 8

/-- The direction after the last discrepancy is 0. -/
theorem discrepancyDirection_of_gt (rom : Address) {ld q : Nat} (h : ld < q) : discrepancyDirection rom ld q = false := by
  rw [discrepancyDirection, if_neg (by omega), decide_eq_false (by omega)]

/-- A first pass on a stuck line finds the all-zero address, with a zero choice at every position. -/
theorem searchPass_held_first (s : State) (h : s.wire.env = .held) :
    (s.searchPass true).1 = .ok ∧ (s.searchPass true).2.rom = zeroAddress ∧ (s.searchPass true).2.ld = 64 ∧
      (s.searchPass true).2.wire.env = .held := by
  have hzeros : ∀ q, 1 ≤ q → discrepancyDirection s.rom (ldAtStart true s) q = false :=
    fun q hq => discrepancyDirection_of_gt s.rom hq
  obtain ⟨hok, hrom, henv, hhigh, hld⟩ := (searchPass_held s true zeroAddress h (.inl rfl)
    (fun q h1 _ => by rw [hzeros q h1]; exact romBit_zero q)).1 (zeroAddress_checks _)
  refine ⟨hok, hrom, ?_, henv⟩
  have hnot : ¬(s.searchPass true).2.ld < 64 := fun hlt =>
    hhigh 64 (by decide) (by decide) hlt (hzeros 64 (by decide))
  omega

/-- The address of all zeros but for its last position. -/
def lastBitAddress : Address := setRomBit zeroAddress 64 true

/-- It does not check: its CRC byte is not that of seven zero bytes. -/
theorem not_lastBitAddress_checks (form : CrcForm) : ¬AddressChecks form lastBitAddress := by
  have hlist : lastBitAddress.toList = List.replicate 7 0 ++ [0x80] := by decide
  rw [AddressChecks, hlist, crcFold_append_eq_zero_iff, crcFold_replicate_zero]
  decide

/-- The second pass on a stuck line turns at position 64 and finds an address that does not check. -/
theorem searchPass_held_second (s : State) (h : s.wire.env = .held) (hrom : s.rom = zeroAddress) (hld : s.ld = 64)
    (hldf : s.ldf = false) : (s.searchPass false).1 = .checksumMismatch := by
  refine (searchPass_held s false lastBitAddress h (.inr hldf) fun q h1 h2 => ?_).2 (not_lastBitAddress_checks _)
  rw [lastBitAddress, romBit_setRomBit _ _ _ _ (by decide) (by decide) h1 h2, hrom]
  show _ = discrepancyDirection zeroAddress s.ld q
  rw [hld, discrepancyDirection]
  rcases Nat.eq_or_lt_of_le h2 with rfl | hlt
  · rfl
  · rw [if_neg (by omega), if_pos hlt]

/-- A failed pass ends the discovery loop (R150). -/
theorem discover_of_failed (n : Nat) (r : Err × State) (h : r.1 ≠ .ok) : State.discover n r = r := by
  cases n with
  | zero => rfl
  | succ n => rw [State.discover, if_neg h]

/-- A device that is not the last, with room for another, goes on to the next pass (R150). -/
theorem discover_of_more (n : Nat) (r : Err × State) (hok : r.1 = .ok) (hldf : r.2.ldf = false)
    (hroom : r.2.dirCount + 1 ≠ r.2.build.dirCap) :
    State.discover (n + 1) r = State.discover n (r.2.storeFound.searchPass false) := by
  rw [State.discover, if_pos hok]
  dsimp only
  rw [storeFound_ldf, hldf, if_neg Bool.false_ne_true, storeFound_dirCount, storeFound_build, if_neg hroom]

/-- DISCOVER_ALL on a stuck line: the first pass's address is stored, the second pass fails. -/
theorem discover_held (s : State) (h : s.wire.env = .held) (hcap : 2 ≤ s.build.dirCap) :
    (State.discover s.build.dirCap (s.clearDirectory.searchPass true)).1 = .checksumMismatch ∧
    (State.discover s.build.dirCap (s.clearDirectory.searchPass true)).2.dirCount = 1 ∧
    (State.discover s.build.dirCap (s.clearDirectory.searchPass true)).2.dirEntry 0 = zeroAddress := by
  obtain ⟨hok, hrom, hld, henv⟩ := searchPass_held_first s.clearDirectory h
  have hldf : (s.clearDirectory.searchPass true).2.ldf = false := by
    obtain ⟨-, -, -, -, hiff⟩ | ⟨-, -, -, hld0, -⟩ := searchPass_result s.clearDirectory true
    · rw [hld] at hiff
      simpa using hiff
    · omega
  have hdir : (s.clearDirectory.searchPass true).2.dir = List.replicate s.build.dirCap zeroAddress := by
    rw [searchPass_dir]; rfl
  have hcount : (s.clearDirectory.searchPass true).2.dirCount = 0 := by rw [searchPass_dirCount]; rfl
  have hbuild : (s.clearDirectory.searchPass true).2.build = s.build := by rw [searchPass_build]; rfl
  obtain ⟨n, hn⟩ : ∃ n, s.build.dirCap = n + 1 := ⟨s.build.dirCap - 1, by omega⟩
  generalize s.clearDirectory.searchPass true = r at *
  have hfail := searchPass_held_second r.2.storeFound henv hrom hld hldf
  have hdiscover : State.discover s.build.dirCap r = r.2.storeFound.searchPass false := by
    rw [hn, discover_of_more n r hok hldf (by rw [hcount, hbuild]; omega),
      discover_of_failed n _ (by rw [hfail]; exact Err.noConfusion)]
  rw [hdiscover]
  refine ⟨hfail, ?_, ?_⟩
  · rw [searchPass_dirCount, storeFound_dirCount, hcount]
  · have hlen : r.2.dirCount < r.2.dir.length := by rw [hcount, hdir, List.length_replicate]; omega
    have hentry := storeFound_dirEntry r.2 hlen 0
    rw [if_pos hcount.symm, hrom] at hentry
    rw [← hentry, State.dirEntry, searchPass_dir, State.dirEntry]

/-- Settles O39: the first pass on a stuck line, and DISCOVER_ALL's two passes. -/
theorem heldLineReadsAsZeros : Obligations.HeldLineReadsAsZeros := by
  intro s h
  constructor
  · obtain ⟨hok, hrom, hld, -⟩ := searchPass_held_first s h
    obtain ⟨-, hfound, hcrc, -⟩ | ⟨herr, -⟩ := searchPass_result s true
    · exact ⟨_, exec_searchFirst s, hok, hfound, fun p => by rw [State.searched, finish_rom, hrom]; exact romBit_zero p,
        hld, hcrc⟩
    · rw [hok] at herr
      exact absurd herr (by decide)
  · intro hcap
    obtain ⟨herr, hcount, hentry⟩ := discover_held s h hcap
    refine ⟨_, rfl, herr, hcount, ?_, fun p => ?_⟩
    · rw [finish_result, hcount]
      rfl
    · exact (congrArg (romBit · p) hentry).trans (romBit_zero p)

/-! ### Reference devices (R148, R154) -/

/-- `a` agrees with `r` at every position before `q`. -/
def agreesBefore (r : Address) (q : Nat) (a : Address) : Bool :=
  (List.range (q - 1)).all fun j => romBit r (j + 1) == romBit a (j + 1)

theorem agreesBefore_iff (r : Address) (q : Nat) (a : Address) :
    agreesBefore r q a = true ↔ ∀ j, 1 ≤ j → j < q → romBit r j = romBit a j := by
  simp only [agreesBefore, List.all_eq_true, List.mem_range, beq_iff_eq]
  constructor
  · intro h j h1 h2
    have := h (j - 1) (by omega)
    rwa [Nat.sub_add_cancel h1] at this
  · exact fun h j hj => h (j + 1) (by omega) (by omega)

/-- One position further. -/
theorem agreesBefore_succ (r : Address) (q : Nat) (a : Address) (hq : 1 ≤ q) :
    agreesBefore r (q + 1) a = (agreesBefore r q a && (romBit r q == romBit a q)) := by
  obtain ⟨q, rfl⟩ := Nat.exists_eq_add_of_le' hq
  simp only [agreesBefore, Nat.add_sub_cancel, List.range_succ, List.all_append, List.all_cons, List.all_nil,
    Bool.and_true]

/-- The bit that devices with the addresses `roms` answer at position `q` of the walk towards `r`: those that have agreed
with `r` so far still take part. -/
def bitTowards (roms : List Address) (r : Address) (q : Nat) : Bool :=
  roms.all fun a => !agreesBefore r q a || romBit a q

/-- The complement they answer after it. -/
def complementTowards (roms : List Address) (r : Address) (q : Nat) : Bool :=
  roms.all fun a => !agreesBefore r q a || !romBit a q

/-- The devices before position `q` of the walk towards `r`. -/
def DevicesTowards (roms : List Address) (r : Address) (q : Nat) (e : BusEnv) : Prop :=
  ∃ ds : List Device, ds.map Device.rom = roms ∧ e = .devices (ds.map (searching (fun d => agreesBefore r q d.rom) q))

/-- A device still taking part has another bit than `r` at position `q` (R142). -/
def Splits (roms : List Address) (r : Address) (q : Nat) : Prop :=
  ∃ a ∈ roms, agreesBefore r q a = true ∧ romBit a q ≠ romBit r q

/-- Without a split the devices answer the bit of `r` and its complement. -/
theorem towards_of_not_splits {roms : List Address} {r : Address} {q : Nat} (hr : r ∈ roms) (h : ¬Splits roms r q) :
    bitTowards roms r q = romBit r q ∧ complementTowards roms r q = !romBit r q := by
  have hself : agreesBefore r q r = true := (agreesBefore_iff r q r).2 fun _ _ _ => rfl
  have hbits : ∀ a ∈ roms, agreesBefore r q a = true → romBit a q = romBit r q := fun a ha hagree =>
    not_not.1 fun hne => h ⟨a, ha, hagree, hne⟩
  constructor <;> rw [Bool.eq_iff_iff]
  · simp only [bitTowards, List.all_eq_true, Bool.or_eq_true, Bool.not_eq_true']
    refine ⟨fun hall => (hall r hr).resolve_left (by simp [hself]), fun hone a ha => ?_⟩
    cases hagree : agreesBefore r q a
    · exact .inl rfl
    · exact .inr ((hbits a ha hagree).trans hone)
  · simp only [complementTowards, List.all_eq_true, Bool.or_eq_true, Bool.not_eq_true']
    refine ⟨fun hall => (hall r hr).resolve_left (by simp [hself]), fun hone a ha => ?_⟩
    cases hagree : agreesBefore r q a
    · exact .inl rfl
    · exact .inr ((hbits a ha hagree).trans hone)

/-- At a split they answer `(0, 0)`: the bit of `r` and the other one both pull the line low. -/
theorem towards_of_splits {roms : List Address} {r : Address} {q : Nat} (hr : r ∈ roms) (h : Splits roms r q) :
    bitTowards roms r q = false ∧ complementTowards roms r q = false := by
  obtain ⟨a, ha, hagree, hne⟩ := h
  have hself : agreesBefore r q r = true := (agreesBefore_iff r q r).2 fun _ _ _ => rfl
  have hmem : ∀ c : Bool, ∃ x ∈ roms, agreesBefore r q x = true ∧ romBit x q = c := by
    intro c
    by_cases hc : romBit r q = c
    · exact ⟨r, hr, hself, hc⟩
    · exact ⟨a, ha, hagree, by revert hne hc; cases romBit a q <;> cases romBit r q <;> cases c <;> decide⟩
  constructor
  · obtain ⟨x, hx, hagree, hbit⟩ := hmem false
    exact List.all_eq_false.2 ⟨x, hx, by simp [hagree, hbit]⟩
  · obtain ⟨x, hx, hagree, hbit⟩ := hmem true
    exact List.all_eq_false.2 ⟨x, hx, by simp [hagree, hbit]⟩

/-- The pair read is a discrepancy exactly at a split. -/
theorem towards_eq_iff {roms : List Address} {r : Address} {q : Nat} (hr : r ∈ roms) :
    bitTowards roms r q = complementTowards roms r q ↔ Splits roms r q := by
  constructor
  · intro heq
    by_contra h
    obtain ⟨hb, hcb⟩ := towards_of_not_splits hr h
    rw [hb, hcb] at heq
    exact Bool.not_ne_self _ heq.symm
  · intro h
    obtain ⟨hb, hcb⟩ := towards_of_splits hr h
    rw [hb, hcb]

/-- Reference devices answer a walk towards the address of one of them. -/
theorem devices_answersWalk {roms : List Address} {r : Address} (hr : r ∈ roms) :
    AnswersWalk (DevicesTowards roms r) (bitTowards roms r) (complementTowards roms r) (romBit r) where
  bit := by
    rintro q e tr - h64 ⟨ds, rfl, rfl⟩
    rw [searching_readBit ds _ q h64, bitTowards, List.all_map]
    rfl
  complement := by
    rintro q e tr - h64 ⟨ds, rfl, rfl⟩
    rw [searching_readComplement ds _ q h64, complementTowards, List.all_map]
    rfl
  next := by
    rintro q e h1 h64 ⟨ds, hroms, rfl⟩
    refine ⟨ds, hroms, ?_⟩
    rw [searching_afterPosition ds _ q h64]
    simp only [agreesBefore_succ r q _ h1]
  answered := by
    rintro q - - ⟨hb, hcb⟩
    have hboth := (towards_of_splits hr ((towards_eq_iff hr).1 (hb.trans hcb.symm))).1
    exact absurd (hb.symm.trans hboth) (by decide)

/-- The walk goes towards `r` if it takes the direction of `r` at every split (R142, R143). -/
theorem searchDirection_towards {roms : List Address} {r : Address} {q : Nat} (hr : r ∈ roms) (rom : Address) (ld : Nat)
    (h : Splits roms r q → discrepancyDirection rom ld q = romBit r q) :
    searchDirection rom ld q (bitTowards roms r q) (complementTowards roms r q) = romBit r q := by
  unfold searchDirection
  by_cases hs : Splits roms r q
  · rw [if_pos ((towards_eq_iff hr).2 hs)]
    exact h hs
  · rw [if_neg (mt (towards_eq_iff hr).1 hs)]
    exact (towards_of_not_splits hr hs).1

/-- A device in a search keeps its address. -/
theorem searching_rom (alive : Device → Bool) (q : Nat) (d : Device) : (searching alive q d).rom = d.rom := by
  unfold searching
  split <;> rfl

/-- The bus holds reference devices with the addresses `roms`. -/
def HasDevices (roms : List Address) (s : State) : Prop :=
  ∃ ds : List Device, ds.map Device.rom = roms ∧ s.wire.env = .devices ds

/-- A pass over reference devices finds the address `r` of one of them if it takes the direction of `r` at every split; the
devices stay, and LD is the last split at which `r` has 0. -/
theorem searchPass_devices (s : State) (first : Bool) (roms : List Address) (r : Address) (hr : r ∈ roms)
    (henv : HasDevices roms s) (hcmd : s.build.cmdSearch = 0xF0)
    (hchecks : AddressChecks s.build.crcForm r) (hpass : first = true ∨ s.ldf = false)
    (hdir : ∀ q, 1 ≤ q → q ≤ 64 → Splits roms r q →
      discrepancyDirection s.rom (ldAtStart first s) q = romBit r q) :
    (s.searchPass first).1 = .ok ∧ (s.searchPass first).2.rom = r ∧
      HasDevices roms (s.searchPass first).2 ∧
      IsLastZero (fun q => Splits roms r q ∧ romBit r q = false) 64 1 0 (s.searchPass first).2.ld := by
  obtain ⟨ds, hroms, hds⟩ := henv
  have hsome : ds ≠ [] := by
    rintro rfl
    rw [← hroms] at hr
    exact absurd hr List.not_mem_nil
  have hpres : s.wire.env.presenceLevel s.wire.trace = false := by
    rw [hds, devices_presenceLevel]
    exact List.isEmpty_eq_false_iff.2 hsome
  have hstart : DevicesTowards roms r 1 (s.wire.reset.2.writeByte s.build.cmdSearch).env :=
    ⟨ds, hroms, by rw [hcmd]; exact devices_after_searchCommand ds s.wire hds⟩
  obtain ⟨hok, hrom, ⟨ds', hroms', hds'⟩, hld⟩ := (searchPass_answered (devices_answersWalk hr) s first r hpass hpres
    hstart (fun q h1 h2 => searchDirection_towards hr s.rom _ (hdir q h1 h2)) (fun _ _ _ => rfl)).1 hchecks
  simp only [towards_eq_iff hr] at hld
  refine ⟨hok, hrom, ⟨_, ?_, hds'⟩, hld⟩
  rw [List.map_map, ← hroms']
  exact List.map_congr_left fun d _ => searching_rom _ 65 d

/-- Settles O40: one device never splits, so no discrepancy is met and LD stays 0. -/
theorem singleDeviceIsFound : Obligations.SingleDeviceIsFound := by
  intro s d henv hcmd hchecks
  have hnosplit : ∀ q, ¬Splits [d.rom] d.rom q := by
    rintro q ⟨a, ha, -, hne⟩
    exact hne (by rw [List.mem_singleton.1 ha])
  obtain ⟨hok, hrom, -, -, hld⟩ := searchPass_devices s true [d.rom] d.rom (List.mem_singleton_self _)
    ⟨[d], rfl, henv⟩ hcmd hchecks (.inl rfl) (fun q _ _ h => absurd h (hnosplit q))
  have hld0 : (s.searchPass true).2.ld = 0 := hld.resolve_right fun ⟨_, _, h, _⟩ => hnosplit _ h
  obtain ⟨-, hfound, -, -, hldf⟩ | ⟨herr, -⟩ := searchPass_result s true
  · exact ⟨_, exec_searchFirst s, hok, hfound, hrom, hld0, hldf.2 hld0⟩
  · rw [hok] at herr
    exact absurd herr (by decide)

/-- Two devices split at their first differing position only. -/
theorem splits_pair_iff {roms : List Address} {r x : Address} {p q : Nat} (hx : x ∈ roms)
    (honly : ∀ a ∈ roms, a = r ∨ a = x) (hp : 1 ≤ p) (hq : 1 ≤ q) (hne : romBit x p ≠ romBit r p)
    (hsame : ∀ j, 1 ≤ j → j < p → romBit r j = romBit x j) : Splits roms r q ↔ q = p := by
  constructor
  · rintro ⟨a, ha, hagree, hbit⟩
    rcases honly a ha with rfl | rfl
    · exact absurd rfl hbit
    · rw [agreesBefore_iff] at hagree
      rcases Nat.lt_trichotomy q p with h | h | h
      · exact absurd (hsame q hq h).symm hbit
      · exact h
      · exact absurd (hagree p hp h).symm hne
  · rintro rfl
    exact ⟨x, hx, (agreesBefore_iff _ _ _).2 hsame, hne⟩

/-- Two devices, `a` before `b` in the order of R153, with their first differing position `p`. -/
structure TwoAddresses (roms : List Address) (a b : Address) (p : Nat) : Prop where
  left : a ∈ roms
  right : b ∈ roms
  only : ∀ x ∈ roms, x = a ∨ x = b
  pos : 1 ≤ p
  le : p ≤ 64
  bitLeft : romBit a p = false
  bitRight : romBit b p = true
  same : ∀ q, 1 ≤ q → q < p → romBit a q = romBit b q

theorem TwoAddresses.splits_left {roms : List Address} {a b : Address} {p q : Nat} (h : TwoAddresses roms a b p)
    (hq : 1 ≤ q) : Splits roms a q ↔ q = p :=
  splits_pair_iff h.right h.only h.pos hq (by rw [h.bitLeft, h.bitRight]; decide) h.same

theorem TwoAddresses.splits_right {roms : List Address} {a b : Address} {p q : Nat} (h : TwoAddresses roms a b p)
    (hq : 1 ≤ q) : Splits roms b q ↔ q = p :=
  splits_pair_iff h.left (fun x hx => (h.only x hx).symm) h.pos hq (by rw [h.bitLeft, h.bitRight]; decide)
    (fun j h1 h2 => (h.same j h1 h2).symm)

/-- "Find first" takes 0 at the one split: it finds `a` and keeps the split's position in LD. -/
theorem searched_first_of_two {roms : List Address} {a b : Address} {p : Nat} (h : TwoAddresses roms a b p) (s : State)
    (hds : HasDevices roms s) (hcmd : s.build.cmdSearch = 0xF0) (hca : AddressChecks s.build.crcForm a) :
    (s.searched true).err = .ok ∧ (s.searched true).rom = a ∧ HasDevices roms (s.searched true) ∧
      (s.searched true).ld = p ∧ (s.searched true).ldf = false := by
  obtain ⟨hok, hrom, hds', hhigh, hld⟩ := searchPass_devices s true roms a h.left hds hcmd hca (.inl rfl)
    (fun q h1 _ hsplit => by
      rw [(h.splits_left h1).1 hsplit, h.bitLeft]
      exact discrepancyDirection_of_gt s.rom h.pos)
  have hp := h.pos
  have hp64 := h.le
  have hld : (s.searchPass true).2.ld = p := by
    rcases hld with h0 | ⟨h1, -, hsplit, -⟩
    · exact absurd ⟨(h.splits_left hp).2 rfl, h.bitLeft⟩ (hhigh p hp (by omega) (by omega))
    · exact (h.splits_left h1).1 hsplit
  have hldf : (s.searchPass true).2.ldf = false := by
    obtain ⟨-, -, -, -, hiff⟩ | ⟨-, -, -, -, hldf⟩ := searchPass_result s true
    · exact Bool.eq_false_iff.2 fun hone => by have := hiff.1 hone; omega
    · exact hldf
  exact ⟨hok, hrom, hds', hld, hldf⟩

/-- "Find next" from there takes 1 at the split: it finds `b` and meets no further zero choice, so it is the last. -/
theorem searched_next_of_two {roms : List Address} {a b : Address} {p : Nat} (h : TwoAddresses roms a b p) (s : State)
    (hds : HasDevices roms s) (hcmd : s.build.cmdSearch = 0xF0) (hcb : AddressChecks s.build.crcForm b)
    (hld : s.ld = p) (hldf : s.ldf = false) :
    (s.searched false).err = .ok ∧ (s.searched false).rom = b ∧ (s.searched false).ldf = true := by
  obtain ⟨hok, hrom, -, -, hlast⟩ := searchPass_devices s false roms b h.right hds hcmd hcb (.inr hldf)
    (fun q h1 _ hsplit => by
      rw [(h.splits_right h1).1 hsplit, h.bitRight, show ldAtStart false s = p from hld, discrepancyDirection,
        if_neg (lt_irrefl p), decide_eq_true rfl])
  have hld0 : (s.searchPass false).2.ld = 0 := hlast.resolve_right fun ⟨h1, _, hsplit, hzero⟩ => by
    rw [(h.splits_right h1).1 hsplit, h.bitRight] at hzero
    exact absurd hzero (by decide)
  obtain ⟨-, -, -, -, hiff⟩ | ⟨herr, -⟩ := searchPass_result s false
  · exact ⟨hok, hrom, hiff.2 hld0⟩
  · rw [hok] at herr
    exact absurd herr (by decide)

/-- Settles O41: the two passes, whichever device comes first on the bus, and the exhausted call after them. -/
theorem twoDevicesAreEnumerated : Obligations.TwoDevicesAreEnumerated := by
  rintro s a b henv hcmd hca hcb ⟨p, hp1, hp64, hap, hbp, hsame⟩
  obtain ⟨roms, hds, h⟩ : ∃ roms, HasDevices roms s ∧ TwoAddresses roms a.rom b.rom p := by
    rcases henv with henv | henv
    · exact ⟨_, ⟨_, rfl, henv⟩, by simp, by simp, by simp, hp1, hp64, hap, hbp, hsame⟩
    · exact ⟨_, ⟨_, rfl, henv⟩, by simp, by simp, by simp [or_comm], hp1, hp64, hap, hbp, hsame⟩
  obtain ⟨hok1, hrom1, hds1, hld1, hldf1⟩ := searched_first_of_two h s hds hcmd hca
  obtain ⟨hok2, hrom2, hldf2⟩ := searched_next_of_two h (s.searched true) hds1 (by rw [searched_build]; exact hcmd)
    (by rw [searched_build]; exact hcb) hld1 hldf1
  obtain ⟨t, ht, he, -⟩ := exhaustedSearchStartsOver ((s.searched true).searched false) hldf2
  exact ⟨_, _, t, exec_searchFirst s, exec_searchNext _, ht, hok1, hrom1, hok2, hrom2, hldf2, by rw [he]⟩

end Sys2Proof.Machine
end

section
/-!
PROOFS. The directory (41_search_directory.md): what DISCOVER_ALL stores, pass by pass (R150), and SELECT (R151, R152).
-/

namespace Sys2Proof.Machine

/-! ### The passes of a discovery -/

/-- The states after SEARCH_FIRST and then SEARCH_NEXT again and again. -/
def passState (s : State) : Nat → State
  | 0 => s.searched true
  | k + 1 => (passState s k).searched false

/-- The passes stay in the write set of the search commands. -/
theorem passState_writesSearch (s : State) (k : Nat) : WritesSearch s (passState s k) := by
  induction k with
  | zero => exact (searchPass_writesSearch s true).finish _ _
  | succ k ih =>
    have hnext := (searchPass_writesSearch (passState s k) false).finish
      ((passState s k).searchPass false).1 (zextBool ((passState s k).searchPass false).2.found)
    change WritesSearch (passState s k) (passState s (k + 1)) at hnext
    unfold WritesSearch at ih hnext ⊢
    rw [hnext, ih]

/-- A pass that ended OK found an address that checks (R145). -/
theorem passState_checks (s : State) (k : Nat) (h : (passState s k).err = .ok) :
    AddressChecks s.build.crcForm (passState s k).rom := by
  cases k with
  | zero => exact searchPass_checks s true h
  | succ k =>
    have hbuild : (passState s k).build = s.build := by rw [passState_writesSearch s k]
    rw [← hbuild]
    exact searchPass_checks (passState s k) false h

/-! ### The directory after each pass -/

/-- The entries of `v` are the addresses that the passes found, in order, and the rest of the array is zero. -/
structure HoldsPasses (s v : State) : Prop where
  size : v.dir.length = s.build.dirCap
  found : ∀ i, i < v.dirCount → v.dirEntry i = (passState s i).rom ∧ (passState s i).err = .ok
  empty : ∀ i, v.dirCount ≤ i → v.dirEntry i = Vector.replicate 8 0

/-- Storing what the next pass found. -/
theorem holdsPasses_storeFound {s v : State} (h : HoldsPasses s v) (hroom : v.dirCount < s.build.dirCap)
    (hrom : v.rom = (passState s v.dirCount).rom) (hok : (passState s v.dirCount).err = .ok) :
    HoldsPasses s v.storeFound := by
  have hentry := storeFound_dirEntry v (h.size ▸ hroom)
  refine ⟨by rw [storeFound_dir, List.length_set, h.size], fun i hi => ?_, fun i hi => ?_⟩
  · rw [storeFound_dirCount] at hi
    rw [hentry]
    by_cases hlast : i = v.dirCount
    · rw [if_pos hlast, hlast]
      exact ⟨hrom, hok⟩
    · rw [if_neg hlast]
      exact h.found i (by omega)
  · rw [storeFound_dirCount] at hi
    rw [hentry, if_neg (by omega)]
    exact h.empty i (by omega)

/-- The loop of DISCOVER_ALL after a pass: it is the pass of `passState` with the same number, the directory, ERR and
RESULT aside, and every earlier pass found a device that was not the last. -/
structure AfterPass (s : State) (e : Err) (v : State) : Prop where
  holds : HoldsPasses s v
  room : v.dirCount < s.build.dirCap
  code : e = (passState s v.dirCount).err
  state : v = { passState s v.dirCount with
    dir := v.dir, dirCount := v.dirCount, err := s.err, result := s.result }
  earlier : ∀ k, k < v.dirCount → (passState s k).err = .ok ∧ (passState s k).ldf = false

/-- The first pass of DISCOVER_ALL. -/
theorem afterPass_first (s : State) (hcap : 1 ≤ s.build.dirCap) :
    AfterPass s (s.clearDirectory.searchPass true).1 (s.clearDirectory.searchPass true).2 := by
  have hpass := searchPass_outside s true (List.replicate s.build.dirCap (Vector.replicate 8 0)) 0 s.err s.result
  change s.clearDirectory.searchPass true = _ at hpass
  rw [hpass]
  exact
    { holds := ⟨List.length_replicate, fun i hi => absurd hi (Nat.not_lt_zero i),
        fun i _ => dirEntry_replicate _ s.build.dirCap i rfl⟩
      room := hcap
      code := rfl
      state := rfl
      earlier := fun k hk => absurd hk (Nat.not_lt_zero k) }

/-- The next pass of DISCOVER_ALL, after one that found a device that is not the last. -/
theorem afterPass_next {s v : State} (h : AfterPass s .ok v) (hldf : v.ldf = false)
    (hnotFull : v.dirCount + 1 ≠ s.build.dirCap) :
    AfterPass s (v.storeFound.searchPass false).1 (v.storeFound.searchPass false).2 := by
  obtain ⟨hholds, hroom, hcode, hstate, hearlier⟩ := h
  have hrom : v.rom = (passState s v.dirCount).rom := by rw [hstate]
  have hldf' : (passState s v.dirCount).ldf = false := by rw [hstate] at hldf; exact hldf
  obtain ⟨hsize, hfound, hempty⟩ := holdsPasses_storeFound hholds hroom hrom hcode.symm
  have hpass := searchPass_outside (passState s v.dirCount) false v.storeFound.dir (v.dirCount + 1) s.err s.result
  rw [show { passState s v.dirCount with
      dir := v.storeFound.dir, dirCount := v.dirCount + 1, err := s.err, result := s.result } = v.storeFound by
    unfold State.storeFound
    rw [hstate]] at hpass
  rw [hpass]
  exact
    { holds := ⟨hsize, hfound, hempty⟩
      room := lt_of_le_of_ne hroom hnotFull
      code := rfl
      state := rfl
      earlier := by
        intro k hk
        rcases Nat.lt_succ_iff_lt_or_eq.1 hk with hk | rfl
        · exact hearlier k hk
        · exact ⟨hcode.symm, hldf'⟩ }

/-- How DISCOVER_ALL's loop ends after `n` passes (R150). -/
structure Discovered (s : State) (n : Nat) (e : Err) (v : State) : Prop where
  pos : 1 ≤ n
  le : n ≤ s.build.dirCap
  holds : HoldsPasses s v
  state : v = { passState s (n - 1) with dir := v.dir, dirCount := v.dirCount, err := s.err, result := s.result }
  earlier : ∀ k, k + 1 < n → (passState s k).err = .ok ∧ (passState s k).ldf = false
  failed : (passState s (n - 1)).err ≠ .ok → e = (passState s (n - 1)).err ∧ v.dirCount = n - 1
  stored : (passState s (n - 1)).err = .ok → v.dirCount = n ∧
    ((passState s (n - 1)).ldf = true → e = .ok) ∧
    ((passState s (n - 1)).ldf = false → e = .directoryFull ∧ n = s.build.dirCap)

/-- A failed pass ends the loop. -/
theorem discovered_failed {s v : State} {e : Err} (h : AfterPass s e v) (he : e ≠ .ok) :
    Discovered s (v.dirCount + 1) e v where
  pos := Nat.succ_pos _
  le := h.room
  holds := h.holds
  state := h.state
  earlier := fun k hk => h.earlier k (Nat.lt_of_succ_lt_succ hk)
  failed := fun _ => ⟨h.code, rfl⟩
  stored := fun hok => absurd (h.code.trans hok) he

/-- So do the last device and a full directory, after the address is stored. -/
theorem discovered_stored {s v : State} {e : Err} (h : AfterPass s .ok v) (hlast : v.ldf = true → e = .ok)
    (hfull : v.ldf = false → e = .directoryFull ∧ v.dirCount + 1 = s.build.dirCap) :
    Discovered s (v.dirCount + 1) e v.storeFound := by
  obtain ⟨hholds, hroom, hcode, hstate, hearlier⟩ := h
  have hrom : v.rom = (passState s v.dirCount).rom := by rw [hstate]
  have hldf : v.ldf = (passState s v.dirCount).ldf := by rw [hstate]
  exact
    { pos := Nat.succ_pos _
      le := hroom
      holds := holdsPasses_storeFound hholds hroom hrom hcode.symm
      state := by
        unfold State.storeFound
        rw [hstate]
        rfl
      earlier := fun k hk => hearlier k (Nat.lt_of_succ_lt_succ hk)
      failed := fun hne => absurd hcode.symm hne
      stored := fun _ => ⟨rfl, fun h => hlast (hldf.trans h), fun h => hfull (hldf.trans h)⟩ }

/-- The whole loop. -/
theorem discover_discovered (s : State) (hcap : 1 ≤ s.build.dirCap) :
    ∃ n, Discovered s n (State.discover s.build.dirCap (s.clearDirectory.searchPass true)).1
      (State.discover s.build.dirCap (s.clearDirectory.searchPass true)).2 := by
  have hbuild : ∀ {e : Err} {v : State}, AfterPass s e v → v.build = s.build := fun {e v} h => by
    rw [h.state]
    show (passState s v.dirCount).build = s.build
    rw [passState_writesSearch s v.dirCount]
  refine discover_induct (AfterPass s) (fun e v => ∃ n, Discovered s n e v) ?failed ?last ?full ?more s.build.dirCap _
    (afterPass_first s hcap) ?count hcap
  case failed => exact fun e v h he => ⟨_, discovered_failed h he⟩
  case last =>
    exact fun v h hldf => ⟨_, discovered_stored h (fun _ => rfl) fun h0 => absurd (hldf.symm.trans h0) (by decide)⟩
  case full =>
    intro v h hldf hfull
    rw [hbuild h] at hfull
    exact ⟨_, discovered_stored h (fun h1 => absurd (hldf.symm.trans h1) (by decide)) fun _ => ⟨rfl, hfull⟩⟩
  case more =>
    intro v h hldf hfull
    rw [hbuild h] at hfull
    exact afterPass_next h hldf hfull
  case count =>
    rw [searchPass_dirCount, searchPass_build]
    exact Nat.zero_add _

/-- Settles O42: the loop's end (`Discovered`), with ERR and RESULT written. -/
theorem discoverAllFillsTheDirectory : Obligations.DiscoverAllFillsTheDirectory := by
  intro s hvalid
  obtain ⟨hcap, hcap16, -⟩ := hvalid
  obtain ⟨n, h⟩ := discover_discovered s hcap
  have hcount : (State.discover s.build.dirCap (s.clearDirectory.searchPass true)).2.dirCount ≤ s.build.dirCap := by
    by_cases hok : (passState s (n - 1)).err = .ok
    · rw [(h.stored hok).1]; exact h.le
    · rw [(h.failed hok).2]; exact (Nat.sub_le n 1).trans h.le
  refine ⟨_, n, passState s, rfl, h.pos, h.le, exec_searchFirst s,
    fun k hk => ⟨(h.earlier k hk).1, (h.earlier k hk).2, exec_searchNext (passState s k)⟩, h.failed, h.stored,
    fun i hi => ?_, fun i p hi => ?_, h.holds.size, ?_, ?_⟩
  · obtain ⟨hrom, hok⟩ := h.holds.found i hi
    have hentry := passState_checks s i hok
    rw [← hrom] at hentry
    exact ⟨hrom, hentry⟩
  · exact (congrArg (romBit · p) (h.holds.empty i hi)).trans (romBit_zero p)
  · exact (BitVec.toNat_ofNat _ _).trans (Nat.mod_eq_of_lt (by omega))
  · have hstate := h.state
    generalize State.discover s.build.dirCap (s.clearDirectory.searchPass true) = r at hstate ⊢
    dsimp only
    rw [hstate, State.finish, passState_writesSearch s (n - 1)]

/-! ### SELECT (R151, R152) -/

/-- Bytes written add their write slots to the trace, byte by byte (R74, R115). -/
theorem writeBytes_trace_writeSlots (w : Wire) (vs : List Byte) :
    (w.writeBytes vs).trace = (vs.flatMap writeSlots).reverse ++ w.trace := by
  rw [writeBytes_trace]
  rfl

/-- The bus events of a select whose reset saw presence. -/
theorem selectSlot_trace (s : State) (i : Nat) (hp : s.wire.env.presenceLevel s.wire.trace = false) :
    ((s.wire.reset.2.writeByte s.build.cmdMatch).writeBytes (s.dirEntry i).toList).trace =
      (.reset true :: writeSlots s.build.cmdMatch ++ (s.dirEntry i).toList.flatMap writeSlots).reverse ++
        s.wire.trace := by
  rw [writeBytes_trace_writeSlots, reset_writeByte_trace _ _ hp, List.reverse_append, List.append_assoc]

/-- SELECT is `Select(i)`, then ERR and RESULT. -/
theorem exec_select (s : State) (i : Nat) :
    exec (.select i) s =
      .next ((s.selectSlot i).2.finish (s.selectSlot i).1 (zextBool (decide ((s.selectSlot i).1 = .ok)))) := rfl

/-- Settles O43: the three ends of `Select(i)`. -/
theorem selectAddressesOneDevice : Obligations.SelectAddressesOneDevice := by
  intro s i
  rw [exec_select]
  obtain ⟨hout, e⟩ | ⟨hin, hp, e⟩ | ⟨hin, hp, e⟩ := selectSlot_cases s i
  · rw [e]
    exact ⟨fun _ => rfl, fun h => absurd h (by omega)⟩
  · rw [e]
    refine ⟨fun h => absurd h (by omega), fun _ => ⟨_, rfl, rfl, rfl, rfl, fun _ => ⟨rfl, rfl, ?_⟩, fun h => ?_⟩⟩
    · rw [BusEvents, finish_wire, busReset_wire, reset_snd, hp]
      rfl
    · rw [finish_presence, busReset_presence, reset_fst, hp] at h
      exact absurd h (by decide)
  · rw [e]
    refine ⟨fun h => absurd h (by omega), fun _ => ⟨_, rfl, rfl, writeBytes_drv _ _ (writeByte_drv _ _), rfl, fun h => ?_,
      fun _ => ⟨rfl, rfl, selectSlot_trace s i hp⟩⟩⟩
    have h : (!s.wire.env.presenceLevel s.wire.trace) = false := h
    rw [hp] at h
    exact absurd h (by decide)

end Sys2Proof.Machine
end

section
/-!
PROOFS. The temperature conversion (42_acquisition.md R171) and READ_ALL (R173, R174, R179, R182).
-/

namespace Sys2Proof.Machine

/-! ### The conversion (R171) -/

/-- Rounding toward zero, by the sign and the remainder. -/
theorem tdiv_sixteen (x : Int) : Int.tdiv x 16 = x / 16 + if x < 0 ∧ x % 16 ≠ 0 then 1 else 0 := by
  rw [Int.tdiv_eq_ediv]
  congr 1
  by_cases h : 0 ≤ x ∨ (16 : Int) ∣ x
  · rw [if_pos h, if_neg (by omega)]
  · rw [if_neg h, if_pos (by omega)]
    rfl

/-- Rounding toward minus infinity is the Euclidean quotient. -/
theorem fdiv_sixteen (x : Int) : Int.fdiv x 16 = x / 16 := Int.fdiv_eq_ediv_of_nonneg x (by decide)

/-- A raw value is a signed word. -/
theorem word_toInt_range (w : Word) : -32768 ≤ w.toInt ∧ w.toInt ≤ 32767 := by
  have hlt := BitVec.toInt_lt (x := w)
  have hle := BitVec.le_toInt (x := w)
  omega

/-- A quotient in the range of the conversion keeps its value in 16 bits. -/
theorem toInt_ofInt_of_range (x : Int) (h1 : -20480 ≤ x) (h2 : x ≤ 20479) : (BitVec.ofInt 16 x).toInt = x := by
  rw [BitVec.toInt_ofInt]
  exact Int.bmod_eq_of_le (by omega) (by omega)

/-- The value of a conversion and its range. -/
theorem convert_toInt (raw : Word) :
    (convert .towardZero raw).toInt = Int.tdiv (10 * raw.toInt) 16 ∧
    (convert .floor raw).toInt = Int.fdiv (10 * raw.toInt) 16 ∧
    ∀ r, -20480 ≤ (convert r raw).toInt ∧ (convert r raw).toInt ≤ 20479 := by
  obtain ⟨hlow, hhigh⟩ := word_toInt_range raw
  have htz : -20480 ≤ Int.tdiv (10 * raw.toInt) 16 ∧ Int.tdiv (10 * raw.toInt) 16 ≤ 20479 := by
    rw [tdiv_sixteen]; split <;> omega
  have hfl : -20480 ≤ Int.fdiv (10 * raw.toInt) 16 ∧ Int.fdiv (10 * raw.toInt) 16 ≤ 20479 := by
    rw [fdiv_sixteen]; omega
  have ez : (convert .towardZero raw).toInt = Int.tdiv (10 * raw.toInt) 16 := toInt_ofInt_of_range _ htz.1 htz.2
  have ef : (convert .floor raw).toInt = Int.fdiv (10 * raw.toInt) 16 := toInt_ofInt_of_range _ hfl.1 hfl.2
  refine ⟨ez, ef, fun r => ?_⟩
  cases r with
  | towardZero => rw [ez]; exact htz
  | floor => rw [ef]; exact hfl

/-- Settles O44: the values, the range, which leaves out both sentinels, and the difference of the two roundings. -/
theorem conversionScales : Obligations.ConversionScales := by
  intro raw
  obtain ⟨ez, ef, hrange⟩ := convert_toInt raw
  refine ⟨ez, ef, fun r => ⟨(hrange r).1, (hrange r).2, fun h => ?_, fun h => ?_⟩, ?_⟩
  · have hmax := (hrange r).2
    rw [h] at hmax
    exact absurd hmax (by decide)
  · have hmin := (hrange r).1
    rw [h] at hmin
    exact absurd hmin (by decide)
  · rw [ez, ef, tdiv_sixteen, fdiv_sixteen]
    have hsign : 10 * raw.toInt < 0 ↔ raw.toInt < 0 := by omega
    simp only [hsign]
    split <;> omega

/-! ### READ_ALL (R174) -/

/-- READ_ALL is both reads, then ERR and RESULT. -/
theorem exec_readAll (s : State) :
    exec .readAll s = .next (s.readChannels.finish (readErr s.readChannels) (validBits s.readChannels)) := rfl

/-- ERR is channel 0's cause, and channel 1's if that is OK (R174). -/
theorem readErr_cases (t : State) :
    (t.sensor.s0.cause ≠ .ok → readErr t = t.sensor.s0.cause) ∧ (t.sensor.s0.cause = .ok → readErr t = t.sensor.s1.cause) :=
  ⟨fun h => if_neg h, fun h => if_pos h⟩

/-- A judged channel keeps its history, and its TEMP unless it is valid (R173, R182). -/
theorem judged_keeps {f : SensorChan → SensorChan} (c : SensorChan)
    (h : (∃ t, f = SensorChan.accept t) ∨ ∃ e, e ≠ Err.ok ∧ f = SensorChan.reject e) :
    ((f c).valid = false → (f c).temp = c.temp) ∧ (f c).hist = c.hist := by
  obtain ⟨t, rfl⟩ | ⟨e, -, rfl⟩ := h
  · exact ⟨fun hv => absurd hv (by simp [SensorChan.accept]), rfl⟩
  · exact ⟨fun _ => rfl, rfl⟩

/-- With an empty directory READ_ALL rejects both channels and reaches no bus (R173). -/
theorem readChannels_of_empty (s : State) (h : s.dirCount = 0) :
    s.readChannels = (s.rejectChannel .s0 .invalidReading).rejectChannel .s1 .invalidReading := by
  have hreject : ∀ u : State, u.dirCount = 0 → ∀ ch, u.readChannel ch = u.rejectChannel ch .invalidReading :=
    fun u hu ch => if_pos (by omega)
  rw [State.readChannels, hreject s h, hreject (s.rejectChannel .s0 .invalidReading) h]

/-- Settles O46: each clause is a fact about both reads. -/
theorem readAllJudgesBothChannels : Obligations.ReadAllJudgesBothChannels := by
  intro s
  refine ⟨_, exec_readAll s, validBits_toNat _, (readErr_cases _).1, (readErr_cases _).2, fun ch => ?_, fun h => ?_, ?_⟩
  · obtain ⟨f, e, hf, -⟩ := readChannels_get s ch
    obtain ⟨htemp, hhist⟩ := judged_keeps (s.sensor.get ch) hf
    obtain ⟨hnone, hsome⟩ := readChannels_cause s ch
    have hagree := readChannels_causeAgrees s ch
    rw [finish_sensor]
    refine ⟨hagree, ?_, ?_, hnone, hsome⟩ <;> rw [e]
    exacts [htemp, hhist]
  · rw [readChannels_of_empty s h]
    exact ⟨rfl, rfl, rfl⟩
  · rw [State.finish, readChannels_frame]

/-! ### A channel read from a script (R173) -/

/-- Bus events of two parts, one after the other. -/
theorem busEvents_trans {s u t : State} {evs evs' : List BusEvent} (h : BusEvents s u evs) (h' : BusEvents u t evs') :
    BusEvents s t (evs ++ evs') := by
  unfold BusEvents at *
  rw [h', h, List.reverse_append, List.append_assoc]

/-- The read slots of a run of bytes, from their bits. -/
theorem map_read_flatMap_byteBits (vs : List Byte) :
    (vs.flatMap byteBits).map BusEvent.read = vs.flatMap fun v => readSlots v 8 := by
  rw [List.map_flatMap]
  simp only [map_read_byteBits]

/-- What reading one channel leaves, by the answer it got: `c'` is the channel's reading afterwards. -/
structure ReadsChannel (s t : State) (ch : Sensor) (a : Option Scratchpad) (rest : List Bool) : Prop where
  judged : JudgesTo s.build (s.sensor.get ch) (t.sensor.get ch) a
  other : ∀ ch', ch' ≠ ch → t.sensor.get ch' = s.sensor.get ch'
  crc : t.crc = crcAfterChannel s.build.crcForm s.crc a
  scratch : t.scratch = a.getD s.scratch
  presence : t.presence = a.isSome
  env : t.wire.env = .script rest
  events : BusEvents s t (channelEvents s ch.slot a)

/-- A channel whose reset finds no presence (R173). -/
theorem readChannel_script_none (s : State) (ch : Sensor) (rest : List Bool) (hslot : ch.slot < s.dirCount)
    (henv : s.wire.env = .script (channelAnswers none ++ rest)) : ReadsChannel s (s.readChannel ch) ch none rest := by
  have hpres : s.wire.env.presenceLevel s.wire.trace = true := by rw [henv]; rfl
  obtain ⟨hd, -⟩ | ⟨-, -, e⟩ | ⟨-, hp, -⟩ := readChannel_cases s ch
  · omega
  · rw [e]
    refine ⟨?_, fun ch' hne => ?_, rfl, rfl, ?_, ?_, ?_⟩
    · rw [rejectChannel_sensor, busReset_sensor, get_modify, if_pos rfl]
      rfl
    · rw [rejectChannel_sensor, busReset_sensor, get_modify, if_neg hne]
    · rw [rejectChannel_presence, busReset_presence, reset_fst, hpres]
      rfl
    · rw [rejectChannel_wire, busReset_wire, reset_snd, henv]
      rfl
    · rw [BusEvents, rejectChannel_wire, busReset_wire, reset_snd, hpres]
      rfl
  · exact absurd (hpres.symm.trans hp) (by decide)

/-- What `judgeScratch` makes of the channel of a scratchpad `v` whose bytes CRC holds (R173). -/
theorem judgeScratch_judgesTo (u : State) (ch : Sensor) (v : Scratchpad) (hcrc : u.crc = crcFold u.build.crcForm 0 v.toList)
    (hscratch : u.scratch = v) :
    JudgesTo u.build (u.sensor.get ch) ((u.judgeScratch ch).sensor.get ch) (some v) ∧
      ∀ ch', ch' ≠ ch → (u.judgeScratch ch).sensor.get ch' = u.sensor.get ch' := by
  have hraw : rawTemp v = v[1] ++ v[0] := by
    rw [rawTemp, vector_getD v 1 0 (by decide), vector_getD v 0 0 (by decide)]
  unfold State.judgeScratch
  by_cases hc : u.crc = 0
  · rw [if_pos hc, acceptChannel_sensor, hscratch, hraw]
    refine ⟨⟨fun _ => ?_, fun h => absurd (hcrc.symm.trans hc) h⟩, fun ch' hne => ?_⟩
    · rw [get_modify, if_pos rfl]
      rfl
    · rw [get_modify, if_neg hne]
  · rw [if_neg hc, rejectChannel_sensor]
    refine ⟨⟨fun h => absurd (hcrc.trans h) hc, fun _ => ?_⟩, fun ch' hne => ?_⟩
    · rw [get_modify, if_pos rfl]
      rfl
    · rw [get_modify, if_neg hne]

/-- `judgeScratch` writes the readings only. -/
theorem judgeScratch_frame (u : State) (ch : Sensor) :
    u.judgeScratch ch = { u with sensor := (u.judgeScratch ch).sensor } := by
  unfold State.judgeScratch
  split <;> rfl

/-- The scratchpad of directory entry `i`, selected with presence and read from a script (R151, R173): the nine bytes
are in SCRATCH, their fold is in CRC, and nothing else but PRESENCE and the line has changed. -/
theorem selectSlot_readScratch_script (s : State) (i : Nat) (v : Scratchpad) (rest : List Bool) (hi : i < s.dirCount)
    (henv : s.wire.env = .script (channelAnswers (some v) ++ rest)) :
    ∃ w, (s.selectSlot i).2.readScratch =
        { s with wire := w, crc := crcFold s.build.crcForm 0 v.toList, scratch := v, presence := true } ∧
      w.env = .script rest ∧ w.trace = (channelEvents s i (some v)).reverse ++ s.wire.trace := by
  have henv : s.wire.env = .script (false :: (v.toList.flatMap byteBits ++ rest)) := henv
  have hpres : s.wire.env.presenceLevel s.wire.trace = false := by rw [henv]; rfl
  obtain ⟨hd, -⟩ | ⟨-, hp, -⟩ | ⟨-, -, esel⟩ := selectSlot_cases s i
  · omega
  · exact absurd (hpres.symm.trans hp) (by decide)
  have hselected : (s.selectSlot i).2.wire.env = .script (v.toList.flatMap byteBits ++ rest) := by
    rw [esel]
    exact writeBytes_env_script _ _ _ (writeByte_env_script _ _ _ (by rw [reset_snd, henv]; rfl))
  obtain ⟨renv, rcrc, rscratch, rtrace⟩ := readScratch_script v rest _ hselected
  refine ⟨(s.selectSlot i).2.readScratch.wire, ?_, renv, ?_⟩
  · rw [readScratch_frame, rcrc, rscratch, esel]
    simp only [State.busReset, reset_fst, hpres, Bool.not_false]
  · rw [rtrace, esel, writeByte_trace_writeSlots, selectSlot_trace s _ hpres, map_read_flatMap_byteBits]
    simp only [channelEvents, List.reverse_append, List.append_assoc, busReset_build]

/-- A channel that answers with presence and nine bytes (R151, R173). -/
theorem readChannel_script_some (s : State) (ch : Sensor) (v : Scratchpad) (rest : List Bool)
    (hslot : ch.slot < s.dirCount) (henv : s.wire.env = .script (channelAnswers (some v) ++ rest)) :
    ReadsChannel s (s.readChannel ch) ch (some v) rest := by
  have hpres : s.wire.env.presenceLevel s.wire.trace = false := by rw [henv]; rfl
  obtain ⟨hd, -⟩ | ⟨-, hp, -⟩ | ⟨-, -, e⟩ := readChannel_cases s ch
  · omega
  · exact absurd (hpres.symm.trans hp) (by decide)
  obtain ⟨w, hread, hwenv, htrace⟩ := selectSlot_readScratch_script s ch.slot v rest hslot henv
  rw [e, hread]
  obtain ⟨hjudged, hother⟩ := judgeScratch_judgesTo { s with
    wire := w, crc := crcFold s.build.crcForm 0 v.toList, scratch := v, presence := true } ch v rfl rfl
  refine ⟨hjudged, hother, ?_, ?_, ?_, ?_, ?_⟩
  · rw [judgeScratch_frame]; rfl
  · rw [judgeScratch_frame]; rfl
  · rw [judgeScratch_frame]; rfl
  · rw [judgeScratch_frame]; exact hwenv
  · rw [BusEvents, judgeScratch_frame]; exact htrace

/-- A channel read from a script. -/
theorem readChannel_script (s : State) (ch : Sensor) (a : Option Scratchpad) (rest : List Bool)
    (hslot : ch.slot < s.dirCount) (henv : s.wire.env = .script (channelAnswers a ++ rest)) :
    ReadsChannel s (s.readChannel ch) ch a rest := by
  cases a with
  | none => exact readChannel_script_none s ch rest hslot henv
  | some v => exact readChannel_script_some s ch v rest hslot henv

/-- The end of READ_ALL reports the readings it leaves (R174). -/
theorem finish_reportsReadings (t : State) : ReportsReadings (t.finish (readErr t) (validBits t)) :=
  ⟨rfl, validBits_toNat t⟩

/-- Settles O47: channel 0 from its answer, then channel 1 from its own, or without a slot. -/
theorem scratchpadIsReadAndChecked : Obligations.ScratchpadIsReadAndChecked := by
  intro s a0 a1 rest
  have hdir : (s.readChannel .s0).dirCount = s.dirCount := by rw [readChannel_frame]
  have hbuild : (s.readChannel .s0).build = s.build := by rw [readChannel_frame]
  have hentry : (s.readChannel .s0).dirEntry 1 = s.dirEntry 1 := by rw [readChannel_frame]; rfl
  constructor
  · intro hcount henv
    have h0 := readChannel_script s .s0 a0 rest (by rw [hcount]; decide) henv
    have h1 : s.readChannels = (s.readChannel .s0).rejectChannel .s1 .invalidReading :=
      if_pos (by rw [hdir, hcount]; exact le_refl 1)
    refine ⟨_, exec_readAll s, ?_, ?_, finish_reportsReadings _, ?_, ?_, ?_, ?_, ?_⟩
    · rw [h1]; exact h0.judged
    · rw [h1, ← show (s.readChannel .s0).sensor.s1 = s.sensor.s1 from h0.other .s1 (by decide)]
      rfl
    · rw [h1]; exact h0.crc
    · rw [h1]; exact h0.scratch
    · rw [h1]; exact h0.presence
    · rw [h1]; exact h0.env
    · rw [h1]; exact h0.events
  · intro hcount henv
    rw [List.append_assoc] at henv
    have h0 := readChannel_script s .s0 a0 (channelAnswers a1 ++ rest) (by rw [Sensor.slot]; omega) henv
    have h1 := readChannel_script (s.readChannel .s0) .s1 a1 rest (by rw [hdir, Sensor.slot]; omega) h0.env
    have hevents1 : channelEvents (s.readChannel .s0) 1 a1 = channelEvents s 1 a1 := by
      cases a1 with
      | none => rfl
      | some v => rw [channelEvents, channelEvents, hbuild, hentry]
    refine ⟨_, exec_readAll s, ?_, ?_, finish_reportsReadings _, ?_, ?_, h1.presence, h1.env, ?_⟩
    · have hkeep : s.readChannels.sensor.s0 = (s.readChannel .s0).sensor.s0 := h1.other .s0 (by decide)
      rw [finish_sensor, hkeep]
      exact h0.judged
    · have hkeep : (s.readChannel .s0).sensor.get .s1 = s.sensor.get .s1 := h0.other .s1 (by decide)
      have hjudged := h1.judged
      rw [hkeep, hbuild] at hjudged
      exact hjudged
    · have hcrc := h1.crc
      rw [h0.crc, hbuild] at hcrc
      exact hcrc
    · have hscratch := h1.scratch
      rw [h0.scratch] at hscratch
      exact hscratch
    · have hev := h1.events
      rw [show Sensor.s1.slot = 1 from rfl, hevents1] at hev
      exact busEvents_trans h0.events hev

end Sys2Proof.Machine
end

section
/-!
PROOFS. The clock and the hour roll (42_acquisition.md R37, R176, R177, R181).
-/

namespace Sys2Proof.Machine

/-! ### One clock step (R176) -/

/-- LEAP counts modulo LEAP_PERIOD. -/
theorem nextLeap_eq_mod (s : State) (hpos : 1 ≤ s.build.leapPeriod) (h : s.leap ≤ s.build.leapPeriod - 1) :
    nextLeap s = (s.leap + 1) % s.build.leapPeriod := by
  unfold nextLeap
  split
  case isTrue heq => rw [heq, Nat.mod_self]
  case isFalse hne => rw [Nat.mod_eq_of_lt (by omega)]

/-- A clock step always takes LEAP on. -/
theorem clockStep_leap (s : State) : s.clockStep.leap = nextLeap s := by
  unfold State.clockStep
  dsimp only
  split
  · split <;> rfl
  · rfl

/-- The clock registers after a step: the seconds count on, or the minutes, or the hour rolls. -/
theorem clockStep_cases (s : State) :
    (s.sec + leapStep s < 60 ∧ s.clockStep.sec = s.sec + leapStep s ∧ s.clockStep.minute = s.minute ∧
      s.clockStep.hour = s.hour ∧ s.clockStep.hourRolled = false) ∨
    (60 ≤ s.sec + leapStep s ∧ s.minute ≠ 59 ∧ s.clockStep.sec = s.sec + leapStep s - 60 ∧
      s.clockStep.minute = s.minute + 1 ∧ s.clockStep.hour = s.hour ∧ s.clockStep.hourRolled = false) ∨
    (60 ≤ s.sec + leapStep s ∧ s.minute = 59 ∧ s.clockStep.sec = s.sec + leapStep s - 60 ∧
      s.clockStep.minute = 0 ∧ s.clockStep.hour = (s.hour + 1) % 24 ∧ s.clockStep.hourRolled = true) := by
  unfold State.clockStep
  rw [show clockIncrement s = leapStep s from rfl]
  dsimp only
  split
  case isFalse h => exact .inl ⟨by omega, rfl, rfl, rfl, rfl⟩
  case isTrue h =>
    split
    case isFalse hm => exact .inr (.inl ⟨h, by omega, rfl, rfl, rfl, rfl⟩)
    case isTrue hm => exact .inr (.inr ⟨h, by omega, rfl, rfl, rfl, rfl⟩)

/-- A leap step adds one or two seconds. -/
theorem leapStep_le (s : State) : 1 ≤ leapStep s ∧ leapStep s ≤ 2 := by
  unfold leapStep
  split <;> decide

/-- The uptime after a clock step (R176). -/
theorem clockSeconds_clockStep (s : State) (h : s.Inv) :
    clockSeconds s.clockStep = (clockSeconds s + leapStep s) % 86400 := by
  have hsec := h.sec
  have hmin := h.minute
  have hhour := h.hour
  have hstep := leapStep_le s
  unfold clockSeconds
  obtain ⟨hs, e1, e2, e3, -⟩ | ⟨hs, hm, e1, e2, e3, -⟩ | ⟨hs, hm, e1, e2, e3, -⟩ := clockStep_cases s <;>
    rw [e1, e2, e3] <;> omega

/-- The hour rolls exactly when the minutes wrap from 59 to 0. -/
theorem hourRolled_clockStep_iff (s : State) :
    (s.clockStep.hourRolled = true ↔ s.minute = 59 ∧ 60 ≤ s.sec + leapStep s) ∧
    (s.clockStep.hourRolled = true ↔ s.minute = 59 ∧ s.clockStep.minute = 0) := by
  obtain ⟨hs, -, e2, -, e4⟩ | ⟨hs, hm, -, e2, -, e4⟩ | ⟨hs, hm, -, e2, -, e4⟩ := clockStep_cases s <;> rw [e2, e4]
  · exact ⟨iff_of_false Bool.false_ne_true (by omega), iff_of_false Bool.false_ne_true (by omega)⟩
  · exact ⟨iff_of_false Bool.false_ne_true (by omega), iff_of_false Bool.false_ne_true (by omega)⟩
  · exact ⟨iff_of_true rfl ⟨hm, hs⟩, iff_of_true rfl ⟨hm, rfl⟩⟩

/-- ERR and RESULT are no part of the uptime. -/
theorem clockSeconds_finish (s : State) (e : Err) (r : Word) : clockSeconds (s.finish e r) = clockSeconds s := rfl

/-- ADVANCE_CLOCK is a clock step, then ERR and RESULT. -/
theorem exec_advanceClock (s : State) :
    exec .advanceClock s = .next (s.clockStep.finish .ok (zextBool s.clockStep.hourRolled)) := rfl

/-- Settles O49: the frame and the arithmetic of a clock step. -/
theorem clockAdvances : Obligations.ClockAdvances := by
  intro s
  refine ⟨_, exec_advanceClock s, zextBool_toNat _, ?_, fun h => ?_⟩
  · rw [clockStep_frame]
    rfl
  · have hinv := clockStep_inv h
    obtain ⟨hroll, hwrap⟩ := hourRolled_clockStep_iff s
    rw [clockSeconds_finish, finish_sec, finish_minute, finish_leap, finish_hourRolled, clockStep_leap,
      nextLeap_eq_mod s (inv_leapPeriod h) h.leap]
    exact ⟨clockSeconds_clockStep s h, hinv.sec, hinv.minute, rfl, hroll, hwrap⟩

/-! ### Many clock steps (R37) -/

/-- The last application taken off an iteration. -/
theorem iterateState_succ (f : State → State) (n : Nat) (s : State) :
    iterateState f (n + 1) s = f (iterateState f n s) := by
  induction n generalizing s with
  | zero => rfl
  | succ n ih => exact ih (f s)

/-- The quotient grows exactly on the step that completes a period. -/
theorem succ_div_eq (n p : Nat) (hp : 1 ≤ p) : (n + 1) / p = n / p + if n % p + 1 = p then 1 else 0 := by
  rw [Nat.succ_div]
  congr 1
  have hlt := Nat.mod_lt n hp
  have hmod : (n + 1) % p = (n % p + 1) % p := (Nat.mod_add_mod n p 1).symm
  have hiff : p ∣ n + 1 ↔ n % p + 1 = p := by
    rw [Nat.dvd_iff_mod_eq_zero, hmod]
    constructor
    · intro h
      by_contra hne
      rw [Nat.mod_eq_of_lt (by omega)] at h
      omega
    · intro h
      rw [h, Nat.mod_self]
  simp only [hiff]

/-- The clock after `n` steps from midnight with LEAP = 0. -/
theorem iterate_clockStep (s : State) (h : s.Inv) (hclock : clockSeconds s = 0) (hleap : s.leap = 0) (n : Nat) :
    (iterateState State.clockStep n s).Inv ∧ (iterateState State.clockStep n s).build = s.build ∧
      (iterateState State.clockStep n s).leap = n % s.build.leapPeriod ∧
      clockSeconds (iterateState State.clockStep n s) = (n + n / s.build.leapPeriod) % 86400 := by
  have hpos := inv_leapPeriod h
  induction n with
  | zero => exact ⟨h, rfl, hleap.trans (Nat.zero_mod _).symm, hclock.trans (by rw [Nat.zero_div])⟩
  | succ n ih =>
    rw [iterateState_succ]
    obtain ⟨hinv, hbuild, hl, hc⟩ := ih
    generalize iterateState State.clockStep n s = u at *
    have hstep : leapStep u = if n % s.build.leapPeriod + 1 = s.build.leapPeriod then 2 else 1 := by
      rw [leapStep, hl, hbuild]
    refine ⟨clockStep_inv hinv, ?_, ?_, ?_⟩
    · rw [clockStep_frame]; exact hbuild
    · rw [clockStep_leap, nextLeap_eq_mod u (by rw [hbuild]; exact hpos) hinv.leap, hl, hbuild, Nat.mod_add_mod]
    · rw [clockSeconds_clockStep u hinv, hc, hstep, succ_div_eq n _ hpos]
      split <;> omega

/-- Settles O50: the clock clause of `iterate_clockStep`. -/
theorem leapSecondsAccumulate : Obligations.LeapSecondsAccumulate := by
  intro s n h hclock hleap
  obtain ⟨-, -, -, hcount⟩ := iterate_clockStep s h hclock hleap n
  exact hcount

/-! ### The hour roll (R177, R181) -/

/-- HOUR_ROLLED is a roll, then ERR and RESULT. -/
theorem exec_hourRolled (s : State) :
    exec .hourRolled s = .next (s.hourRoll.finish .ok (BitVec.ofNat 16 s.hourRoll.histIdx.val)) := rfl

/-- The index wraps modulo 24. -/
theorem hourRoll_histIdx_val (s : State) : s.hourRoll.histIdx.val = (s.histIdx.val + 1) % 24 := Fin.val_add s.histIdx 1

/-- Settles O51: the roll's own fields, and what emptying a slot does to each slot. -/
theorem hourRollOpensASlot : Obligations.HourRollOpensASlot := by
  intro s
  refine ⟨_, exec_hourRolled s, hourRoll_histIdx_val s, rfl, ?_, fun ch k => ?_, fun ch => ?_, rfl⟩
  · have hlt := s.hourRoll.histIdx.isLt
    exact (BitVec.toNat_ofNat _ _).trans (Nat.mod_eq_of_lt (by omega))
  · obtain ⟨hnew, hold⟩ := emptySlot_hist (s.sensor.get ch) (s.histIdx + 1) k
    rw [finish_sensor, finish_histIdx, hourRoll_sensor, hourRoll_histIdx, get_map]
    refine ⟨fun hk => ?_, hold⟩
    rw [hnew hk]
    exact ⟨rfl, rfl⟩
  · rw [finish_sensor, hourRoll_sensor, get_map]
    exact ⟨rfl, rfl, rfl⟩

/-- The index after `n` rolls, with anything in between that leaves it alone. -/
theorem iterate_hourRoll_histIdx (between : State → State) (hkeep : ∀ u, (between u).histIdx = u.histIdx) (n : Nat)
    (s : State) :
    (iterateState (fun u => (between u).hourRoll) n s).histIdx.val = (s.histIdx.val + n) % 24 := by
  induction n with
  | zero => exact (Nat.mod_eq_of_lt s.histIdx.isLt).symm
  | succ n ih =>
    rw [iterateState_succ, hourRoll_histIdx_val, hkeep, ih, Nat.mod_add_mod, Nat.add_assoc]

/-- Settles O52: 24 rolls add 0 modulo 24, and the latest of them emptied the slot it opened. -/
theorem historyWrapsAfterADay : Obligations.HistoryWrapsAfterADay := by
  intro s between hkeep
  have hidx : (iterateState (fun u => (between u).hourRoll) 24 s).histIdx = s.histIdx := by
    apply Fin.ext
    have hlt := s.histIdx.isLt
    rw [iterate_hourRoll_histIdx between hkeep]
    omega
  refine ⟨hidx, fun ch => ?_⟩
  rw [iterateState_succ] at hidx ⊢
  generalize between (iterateState (fun u => (between u).hourRoll) 23 s) = u at *
  rw [hourRoll_sensor, get_map]
  exact (emptySlot_hist (u.sensor.get ch) (u.histIdx + 1) s.histIdx).1 hidx.symm

end Sys2Proof.Machine
end

section
/-!
PROOFS. The output controller over steps (43_output_controller.md R203, R205, R211-R213).
-/

namespace Sys2Proof.Machine

/-! ### What OutputStep reads (R213) -/

/-- The raw decision of channel 1 depends on the inputs of R213 only. -/
theorem rawDecision1_congr {s t : State} (h : SameOutputInputs s t) : rawDecision1 s = rawDecision1 t := by
  obtain ⟨hbuild, hsp, hout, ht0, ht1, hv0, hv1⟩ := h
  unfold rawDecision1 source1 threshold
  rw [hbuild, hsp, hout, ht0, ht1, hv0, hv1]

/-- So does channel 2's. -/
theorem rawDecision2_congr {s t : State} (h : SameOutputInputs s t) : rawDecision2 s = rawDecision2 t := by
  obtain ⟨-, hsp, hout, ht0, ht1, hv0, hv1⟩ := h
  unfold rawDecision2 source2 valid2 threshold
  rw [hsp, hout, ht0, ht1, hv0, hv1]

/-- Channel 1's part of the step keeps the inputs equal. -/
theorem outputStep1_congr {s t : State} (h : SameOutputInputs s t) :
    SameOutputInputs (outputStep1 s) (outputStep1 t) := by
  have hraw := rawDecision1_congr h
  obtain ⟨hbuild, hsp, hout, hreadings⟩ := h
  refine ⟨hbuild, hsp, ?_, hreadings⟩
  unfold outputStep1
  rw [hraw, hbuild, hout]

/-- The outputs after an output step depend on the inputs of R213 only. -/
theorem outputStep_congr {s t : State} (h : SameOutputInputs s t) : (outputStep s).out = (outputStep t).out := by
  have h1 := outputStep1_congr h
  have hraw := rawDecision2_congr h1
  obtain ⟨hbuild, -, hout, -⟩ := h1
  unfold outputStep outputStep2
  rw [hraw, hbuild, hout]

/-- Settles O58: both commands have run the output step, which leaves the line alone. -/
theorem outputStepIsDeterministic : Obligations.OutputStepIsDeterministic := by
  intro s s' t t' h ht ht'
  obtain ⟨-, rfl⟩ := exec_outputUpdate_next ht
  obtain ⟨-, rfl⟩ := exec_outputUpdate_next ht'
  rw [finish_out, finish_out, finish_wire, finish_wire]
  exact ⟨outputStep_congr h, rfl, rfl⟩

/-! ### Coupling and invalid readings (R203, R205, R212) -/

/-- What a completed OUTPUT_UPDATE did to channel 1, as R202, R203 and R207 say it. -/
theorem outputUpdate_channel1 {s t : State} (h : exec .outputUpdate s = .next t) :
    ∃ src v r, Channel1Source s src v ∧
      DecidesTo (10 * s.sp[0].toInt) (10 * s.sp[1].toInt) src v s.out.c1.cur r ∧
      DebouncesTo s.build.n1 s.build.n2 s.out.c1 t.out.c1 r := by
  obtain ⟨u, hu, -, -, h1, -⟩ := outputUpdateDecidesAndDebounces s (exec_outputUpdate_next h).1
  rw [h] at hu
  cases hu
  exact h1

/-- What it did to channel 2, as R204, R206 and R207 say it. -/
theorem outputUpdate_channel2 {s t : State} (h : exec .outputUpdate s = .next t) :
    ∃ r, DecidesTo (10 * s.sp[2].toInt) (10 * s.sp[3].toInt) |s.sensor.s0.temp.toInt - s.sensor.s1.temp.toInt|
        (s.sensor.s0.valid && s.sensor.s1.valid) s.out.c2.cur r ∧
      DebouncesTo s.build.n1 s.build.n2 s.out.c2 t.out.c2 (r || t.out.c1.st2) := by
  obtain ⟨u, hu, -, -, -, h2⟩ := outputUpdateDecidesAndDebounces s (exec_outputUpdate_next h).1
  rw [h] at hu
  cases hu
  exact h2

/-- Settles O55: with ST2[1] = 1 the decision debounced on channel 2 is 1, whatever its own comparison says. -/
theorem couplingForcesChannel2 : Obligations.CouplingForcesChannel2 := by
  intro s t h hst2
  obtain ⟨r, -, hcur, -, -, -, hst1, -⟩ := outputUpdate_channel2 h
  exact ⟨by rw [hcur, hst2, Bool.or_true], hst1⟩

/-- With its source invalid channel 1 is decided off. -/
theorem channel1_off_of_invalid {s t : State} (h : exec .outputUpdate s = .next t)
    (hinvalid : ∀ src v, Channel1Source s src v → v = false) : t.out.c1.cur = false := by
  obtain ⟨src, v, r, hsrc, ⟨hoff, -⟩, hcur, -⟩ := outputUpdate_channel1 h
  rw [hcur, hoff (hinvalid src v hsrc)]

/-- Settles O56: the validity of the source, for each of the three sources and for channel 2. -/
theorem invalidReadingForcesOff : Obligations.InvalidReadingForcesOff := by
  intro s t h
  refine ⟨fun hb hv => channel1_off_of_invalid h fun src v hsrc => ?_,
    fun hb hv => channel1_off_of_invalid h fun src v hsrc => ?_,
    fun hb hv => channel1_off_of_invalid h fun src v hsrc => ?_, fun hv => ?_⟩
  · rw [Channel1Source, hb] at hsrc
    exact hsrc.2.trans hv
  · rw [Channel1Source, hb] at hsrc
    exact hsrc.2.trans hv
  · rw [Channel1Source, hb] at hsrc
    exact hsrc.2.trans hv
  · obtain ⟨r, ⟨hoff, -⟩, hcur, -⟩ := outputUpdate_channel2 h
    rw [hcur, hoff hv, Bool.false_or]

/-! ### Debouncing over steps (R211) -/

/-- The last step taken off a run of the same decision. -/
theorem debounceFor_succ (n1 n2 : Nat) (r : Bool) (k : Nat) (o : OutChan) :
    debounceFor n1 n2 r (k + 1) o = (debounceFor n1 n2 r k o).debounce n1 n2 r := by
  induction k generalizing o with
  | zero => rfl
  | succ k ih => exact ih _

/-- The channel after `k + 1` steps of a decision that differs from CUR. -/
theorem debounceFor_changed (n1 n2 k : Nat) (o : OutChan) (h1 : 1 ≤ n1) (h12 : n1 ≤ n2) (h2 : n2 ≤ 256) :
    (debounceFor n1 n2 (!o.cur) (k + 1) o).cur = !o.cur ∧
    (debounceFor n1 n2 (!o.cur) (k + 1) o).cnt.toNat = min k 255 ∧
    (k + 1 < n1 → (debounceFor n1 n2 (!o.cur) (k + 1) o).st1 = o.st1) ∧
    (n1 ≤ k + 1 → (debounceFor n1 n2 (!o.cur) (k + 1) o).st1 = !o.cur) ∧
    (n2 ≤ k + 1 → (debounceFor n1 n2 (!o.cur) (k + 1) o).st2 = !o.cur) := by
  induction k with
  | zero =>
    obtain ⟨hcur, hcnt, -, hst1, hkeep1, hst2, -⟩ := debouncesTo_debounce n1 n2 o (!o.cur)
    have hcnt := hcnt (Bool.not_ne_self _)
    exact ⟨hcur, hcnt, fun h => hkeep1 (by omega), fun h => hst1 (by omega), fun h => hst2 (by omega)⟩
  | succ k ih =>
    rw [debounceFor_succ]
    obtain ⟨icur, icnt, ikeep, -, -⟩ := ih
    obtain ⟨hcur, -, hcnt, hst1, hkeep1, hst2, -⟩ :=
      debouncesTo_debounce n1 n2 (debounceFor n1 n2 (!o.cur) (k + 1) o) (!o.cur)
    have hcnt := hcnt icur.symm
    rw [icnt] at hcnt
    exact ⟨hcur, by omega, fun h => (hkeep1 (by omega)).trans (ikeep (by omega)), fun h => hst1 (by omega),
      fun h => hst2 (by omega)⟩

/-- Settles O57: `debounceFor_changed`, and the step that flips back, which restarts the counter. -/
theorem debounceNeedsN1Steps : Obligations.DebounceNeedsN1Steps := by
  intro n1 n2 k o h1 h12 h2
  cases k with
  | zero => exact ⟨fun _ => rfl, fun h => absurd h (by omega), fun h => absurd h (by omega), fun h => absurd h (by omega)⟩
  | succ k =>
    obtain ⟨hcur, -, hkeep, hst1, hst2⟩ := debounceFor_changed n1 n2 k o h1 h12 h2
    refine ⟨hkeep, fun _ hlt => ?_, hst1, hst2⟩
    obtain ⟨-, hcnt, -, -, hkeep1, -⟩ := debouncesTo_debounce n1 n2 (debounceFor n1 n2 (!o.cur) (k + 1) o) o.cur
    have hcnt := hcnt (by rw [hcur]; exact (Bool.not_ne_self _).symm)
    exact (hkeep1 (by omega)).trans (hkeep hlt)

end Sys2Proof.Machine
end

section
/-!
PROOFS. The whole acquisition cycle (42_acquisition.md R180): its data part, the outputs, the clock and the history.
-/

namespace Sys2Proof.Machine

/-! ### What a cycle takes from its data part -/

theorem cycle_err (s : State) : s.cycle.err = s.acquireData.1 := by rw [cycle_frame]

theorem cycle_result (s : State) : s.cycle.result = validBits s.cycle := by
  have h := congrArg (fun t => t.result) (cycle_frame s)
  exact h

theorem cycle_wire (s : State) : s.cycle.wire = s.acquireData.2.wire := by rw [cycle_frame]

theorem cycle_crc (s : State) : s.cycle.crc = s.acquireData.2.crc := by rw [cycle_frame]

theorem cycle_scratch (s : State) : s.cycle.scratch = s.acquireData.2.scratch := by rw [cycle_frame]

theorem cycle_presence (s : State) : s.cycle.presence = s.acquireData.2.presence := by rw [cycle_frame]

theorem cycle_hourRolled (s : State) : s.cycle.hourRolled = s.clockStep.hourRolled := by rw [cycle_frame]

/-- What a cycle leaves alone (R180). -/
theorem cycle_kept (s : State) : KeptByCycle s s.cycle := by
  rw [KeptByCycle, cycle_frame]
  exact ⟨rfl, rfl, rfl, rfl, rfl, rfl, rfl, rfl, rfl, rfl, rfl, rfl, rfl, rfl, rfl⟩

/-- The data part keeps the history, and TEMP of an invalid channel (R182). -/
theorem acquireData_keeps (s : State) (ch : Sensor) :
    ((s.acquireData.2.sensor.get ch).valid = false →
      (s.acquireData.2.sensor.get ch).temp = (s.sensor.get ch).temp) ∧
    (s.acquireData.2.sensor.get ch).hist = (s.sensor.get ch).hist := by
  obtain ⟨f, e, hf⟩ := acquireData_get s ch
  rw [e]
  exact judged_keeps _ hf

/-- An invalid channel keeps TEMP over a whole cycle (R182). -/
theorem cycle_temp_of_invalid (s : State) (ch : Sensor) (h : (s.cycle.sensor.get ch).valid = false) :
    (s.cycle.sensor.get ch).temp = (s.sensor.get ch).temp := by
  obtain ⟨htemp, hvalid, -⟩ := cycle_get s ch
  rw [htemp]
  exact (acquireData_keeps s ch).1 (hvalid ▸ h)

/-- A cycle without presence at the conversion reset (R180). -/
theorem cycle_of_no_presence (s : State) (hp : s.wire.env.presenceLevel s.wire.trace = true) :
    s.cycle.err = .busTimeout ∧ s.cycle.sensor.s0.cause = .busTimeout ∧ s.cycle.sensor.s1.cause = .busTimeout ∧
      s.cycle.crc = s.crc ∧ s.cycle.scratch = s.scratch ∧ s.cycle.presence = false ∧
      BusEvents s s.cycle [.reset false] := by
  obtain ⟨-, e⟩ | ⟨hp', -⟩ := acquireData_cases s
  · obtain ⟨-, -, h0⟩ := cycle_get s .s0
    obtain ⟨-, -, h1⟩ := cycle_get s .s1
    rw [e] at h0 h1
    rw [BusEvents, cycle_err, cycle_crc, cycle_scratch, cycle_presence, cycle_wire, e]
    refine ⟨rfl, h0, h1, rfl, rfl, ?_, ?_⟩
    · show s.wire.reset.1 = false
      rw [reset_fst, hp]
      rfl
    · show s.wire.reset.2.trace = _
      rw [reset_snd, hp]
      rfl
  · exact absurd (hp.symm.trans hp') (by decide)

/-- A cycle with presence has the readings, ERR and the line of START_CONVERSIONS and then READ_ALL (R180). -/
theorem cycle_of_presence (s : State) (hp : s.wire.env.presenceLevel s.wire.trace = false) :
    ∃ p q, exec .startConversions s = .next p ∧ exec .readAll p = .next q ∧
      s.cycle.wire = q.wire ∧ s.cycle.crc = q.crc ∧ s.cycle.scratch = q.scratch ∧ s.cycle.presence = q.presence ∧
      s.cycle.err = q.err ∧ ∀ ch : Sensor, (s.cycle.sensor.get ch).temp = (q.sensor.get ch).temp ∧
        (s.cycle.sensor.get ch).valid = (q.sensor.get ch).valid ∧
        (s.cycle.sensor.get ch).cause = (q.sensor.get ch).cause := by
  obtain ⟨hp', -⟩ | ⟨-, e⟩ := acquireData_cases s
  · exact absurd (hp'.symm.trans hp) (by decide)
  · refine ⟨_, _, exec_startConversions s, exec_readAll _, ?_⟩
    rw [readChannels_finish, cycle_err, cycle_crc, cycle_scratch, cycle_presence, cycle_wire]
    have hget := cycle_get s
    rw [e] at hget ⊢
    generalize s.startConv.2.readChannels = r at hget ⊢
    exact ⟨rfl, rfl, rfl, rfl, rfl, hget⟩

/-- ERR of a cycle with presence follows the causes it leaves (R174, R180). -/
theorem cycle_err_of_presence (s : State) (hp : s.wire.env.presenceLevel s.wire.trace = false) :
    (s.cycle.sensor.s0.cause ≠ .ok → s.cycle.err = s.cycle.sensor.s0.cause) ∧
    (s.cycle.sensor.s0.cause = .ok → s.cycle.err = s.cycle.sensor.s1.cause) := by
  obtain ⟨hp', -⟩ | ⟨-, e⟩ := acquireData_cases s
  · exact absurd (hp'.symm.trans hp) (by decide)
  · obtain ⟨-, -, h0⟩ := cycle_get s .s0
    obtain ⟨-, -, h1⟩ := cycle_get s .s1
    rw [get_s0, get_s0] at h0
    rw [get_s1, get_s1] at h1
    rw [cycle_err, h0, h1, e]
    exact readErr_cases _

/-! ### The outputs (R180, R208) -/

/-- The outputs of a cycle are those OUTPUT_UPDATE leaves with the cycle's readings: the history is no input (R213). -/
theorem cycle_out (s : State) : s.cycle.out = (outputStep { s with sensor := s.cycle.sensor }).out := by
  have hwiden : ∀ (i : Fin 24) (c : SensorChan), (c.widen i).temp = c.temp ∧ (c.widen i).valid = c.valid := by
    intro i c
    rw [widen_frame]
    exact ⟨rfl, rfl⟩
  obtain ⟨ht0, hv0, -⟩ := cycle_get s .s0
  obtain ⟨ht1, hv1, -⟩ := cycle_get s .s1
  have hframe := acquireData_frame s
  have hout : s.cycle.out = (outputStep s.acquireData.2.minMax).out := by rw [cycle_frame]
  refine hout.trans (outputStep_congr ⟨?_, ?_, ?_, ?_, ?_, ?_, ?_⟩)
  · rw [minMax_build, hframe]
  · rw [minMax_sp, hframe]
  · rw [minMax_out, hframe]
  · exact (hwiden _ _).1.trans ht0.symm
  · exact (hwiden _ _).1.trans ht1.symm
  · exact (hwiden _ _).2.trans hv0.symm
  · exact (hwiden _ _).2.trans hv1.symm

/-! ### The history (R175, R177, R180) -/

/-- A channel after a cycle: its reading, the current slot widened, and the new slot emptied if the hour rolled. -/
theorem cycle_sensor (s : State) (ch : Sensor) :
    s.cycle.sensor.get ch =
      if s.clockStep.hourRolled then ((s.acquireData.2.sensor.get ch).widen s.histIdx).emptySlot (s.histIdx + 1)
      else (s.acquireData.2.sensor.get ch).widen s.histIdx := by
  obtain ⟨hidx, -, hroll⟩ := acquired_index s
  have hacq : s.acquireData.2.histIdx = s.histIdx := hidx
  have hclock : (outputStep s.acquireData.2.minMax).clockStep.histIdx = s.histIdx := by rw [clockStep_frame]; exact hidx
  have hsensor : (outputStep s.acquireData.2.minMax).clockStep.sensor =
      s.acquireData.2.sensor.map (SensorChan.widen s.histIdx) := by
    rw [clockStep_frame, ← hacq]
    rfl
  rw [cycle_eq, finish_sensor, clockAndRoll_eq, hroll]
  split
  · rw [hourRoll_sensor, hsensor, hclock, get_map, get_map]
  · rw [hsensor, get_map]

/-- A slot that no roll of the cycle opened is as widening left it. -/
theorem cycle_hist_of_not_opened (s : State) (ch : Sensor) (k : Fin 24)
    (h : s.cycle.hourRolled = false ∨ k ≠ s.cycle.histIdx) :
    (s.cycle.sensor.get ch).hist[k] = ((s.acquireData.2.sensor.get ch).widen s.histIdx).hist[k] := by
  rw [cycle_hourRolled] at h
  rw [cycle_sensor]
  cases hr : s.clockStep.hourRolled
  · rfl
  · have hne : k ≠ s.histIdx + 1 := by
      rw [← ((cycle_index s).1 hr).1]
      exact h.resolve_left (by simp [hr])
    exact (emptySlot_hist _ _ k).2 hne

/-- The history of a cycle, slot by slot. -/
theorem cycle_historyFollows (s : State) (ch : Sensor) (k : Fin 24) : HistoryFollows s s.cycle ch k := by
  obtain ⟨htemp, hvalid, -⟩ := cycle_get s ch
  have hhist := (acquireData_keeps s ch).2
  obtain ⟨hwiden, hkeep⟩ := widen_hist (s.acquireData.2.sensor.get ch) s.histIdx k
  rw [hhist] at hwiden hkeep
  constructor
  · intro hr hk
    rw [cycle_hourRolled] at hr
    rw [((cycle_index s).1 hr).1] at hk
    rw [cycle_sensor, hr]
    exact (emptySlot_hist _ _ k).1 hk
  · intro hopen
    rw [cycle_hist_of_not_opened s ch k hopen, htemp, hvalid]
    exact ⟨hwiden, hkeep⟩

/-- Settles O53: the data part, the outputs, the clock and the history of one cycle. -/
theorem acquireCycleCompletes : Obligations.AcquireCycleCompletes := by
  intro s hl
  have hframe := cycle_frame s
  refine ⟨s.cycle, exec_acquireCycle_of_loaded s hl, cycle_kept s, ?_,
    fun ch => ⟨cycle_causeAgrees s ch, cycle_temp_of_invalid s ch⟩, cycle_of_no_presence s,
    fun hp => ⟨(cycle_err_of_presence s hp).1, (cycle_err_of_presence s hp).2, cycle_of_presence s hp⟩,
    ⟨_, exec_outputUpdate_of_loaded { s with sensor := s.cycle.sensor } hl, cycle_out s⟩,
    by rw [hframe], by rw [hframe], by rw [hframe], by rw [hframe],
    cycle_hourRolled s, ?_, ?_, cycle_historyFollows s⟩
  · rw [cycle_result]
    exact validBits_toNat s.cycle
  · rw [cycle_hourRolled]
    exact (cycle_index s).1
  · rw [cycle_hourRolled]
    exact (cycle_index s).2

end Sys2Proof.Machine
end

section
/-!
PROOFS. Bus time (70_reset_and_hazards.md R269, R270): a reset and a slot last what R111 says, and a command as long as its
events.
-/

namespace Sys2Proof.Machine

/-- A reset lasts 960 microseconds. -/
theorem eventTime_reset (p : Bool) : eventTime standardTiming (.reset p) = 960 := rfl

/-- A write slot and a read slot last 70. -/
theorem eventTime_slot (ev : BusEvent) (h : ∀ p, ev ≠ .reset p) : eventTime standardTiming ev = 70 := by
  cases ev with
  | reset p => exact absurd rfl (h p)
  | write b => cases b <;> rfl
  | read b => rfl

/-- The events are slots, none of them a reset. -/
def OnlySlots (evs : List BusEvent) : Prop := ∀ ev ∈ evs, ∀ p, ev ≠ .reset p

theorem onlySlots_append {evs evs' : List BusEvent} (h : OnlySlots evs) (h' : OnlySlots evs') :
    OnlySlots (evs ++ evs') := fun ev hev => (List.mem_append.1 hev).elim (h ev) (h' ev)

theorem onlySlots_flatMap {α : Type} {f : α → List BusEvent} (l : List α) (h : ∀ a, OnlySlots (f a)) :
    OnlySlots (l.flatMap f) := fun ev hev => by
  obtain ⟨a, -, ha⟩ := List.mem_flatMap.1 hev
  exact h a ev ha

/-- A byte written is eight slots. -/
theorem onlySlots_writeSlots (v : Byte) : OnlySlots (writeSlots v) := fun ev hev p => by
  obtain ⟨i, -, rfl⟩ := List.mem_map.1 hev
  exact BusEvent.noConfusion

theorem writeSlots_length (v : Byte) : (writeSlots v).length = 8 := rfl

/-- So is a byte read. -/
theorem onlySlots_readSlots (v : Byte) (n : Nat) : OnlySlots (readSlots v n) := fun ev hev p => by
  obtain ⟨i, -, rfl⟩ := List.mem_map.1 hev
  exact BusEvent.noConfusion

/-- The positions of a walk are three slots each. -/
theorem onlySlots_walkSlots (bs : Nat → Bool × Bool) (rom : Address) (n p : Nat) : OnlySlots (walkSlots bs rom n p) :=
  onlySlots_flatMap _ fun k ev hev q => by
    simp only [triple, List.mem_cons, List.not_mem_nil, or_false] at hev
    obtain rfl | rfl | rfl := hev <;> exact BusEvent.noConfusion

/-- Slots last 70 microseconds each. -/
theorem busTime_of_onlySlots (evs : List BusEvent) (h : OnlySlots evs) :
    busTime standardTiming evs = 70 * evs.length := by
  have hall : ∀ us ∈ evs.map (eventTime standardTiming), us = 70 := fun us hus => by
    obtain ⟨ev, hev, rfl⟩ := List.mem_map.1 hus
    exact eventTime_slot ev (h ev hev)
  rw [busTime, List.sum_eq_card_nsmul _ 70 hall, List.length_map, smul_eq_mul, Nat.mul_comm]

/-- Bus time adds up over the parts of a trace. -/
theorem busTime_append (t : Timing) (a b : List BusEvent) : busTime t (a ++ b) = busTime t a + busTime t b := by
  simp only [busTime, List.map_append, List.sum_append]

/-- Bus time does not depend on the order of the events. -/
theorem busTime_reverse (t : Timing) (evs : List BusEvent) : busTime t evs.reverse = busTime t evs := by
  rw [busTime, List.map_reverse, List.sum_reverse, busTime]

/-- A step takes the bus time of its events. -/
theorem busTimeOf_events {s t : State} {evs : List BusEvent} {us : Nat} (h : BusEvents s t evs)
    (hus : busTime standardTiming evs = us) : BusTimeOf s t us := by
  rw [BusTimeOf, show t.wire.trace = evs.reverse ++ s.wire.trace from h, busTime_append, busTime_reverse, hus]

/-- A step whose events are slots. -/
theorem busTimeOf_slots {s t : State} {evs : List BusEvent} (h : BusEvents s t evs) (hs : OnlySlots evs) :
    BusTimeOf s t (70 * evs.length) := busTimeOf_events h (busTime_of_onlySlots evs hs)

/-- A step whose events are a reset and then `n` slots. -/
theorem busTimeOf_reset_slots {s t : State} {p : Bool} {evs : List BusEvent} (n : Nat)
    (h : BusEvents s t (.reset p :: evs)) (hs : OnlySlots evs) (hn : evs.length = n) :
    BusTimeOf s t (960 + 70 * n) :=
  busTimeOf_events h (by
    rw [← hn, ← busTime_of_onlySlots evs hs, ← eventTime_reset p]
    exact List.sum_cons)

/-- A step that leaves the line alone takes none. -/
theorem busTimeOf_zero {s t : State} (h : t.wire = s.wire) : BusTimeOf s t 0 := by
  rw [BusTimeOf, h, Nat.zero_add]

/-- A successful SELECT: the reset and 72 write slots. -/
theorem busTimeOf_select {s t : State} {i : Nat} (h : exec (.select i) s = .next t) (hok : t.err = .ok) :
    BusTimeOf s t 6000 := by
  obtain ⟨hout, hin⟩ := selectAddressesOneDevice s i
  rcases Nat.lt_or_ge i s.dirCount with hi | hi
  · obtain ⟨u, hu, -, -, -, hnone, hsome⟩ := hin hi
    rw [h] at hu
    cases hu
    cases hp : t.presence
    · rw [(hnone hp).1] at hok
      exact absurd hok (by decide)
    · obtain ⟨-, -, hev⟩ := hsome hp
      rw [List.cons_append] at hev
      exact busTimeOf_reset_slots 72 hev
        (onlySlots_append (onlySlots_writeSlots _) (onlySlots_flatMap _ onlySlots_writeSlots))
        (by simp [List.length_flatMap, writeSlots_length])
  · rw [h] at hout
    cases hout hi
    exact absurd hok Err.noConfusion

/-- A conversion start that saw presence: the reset, and 16 write slots if a device was ever found. -/
theorem busTimeOf_startConversions {s t : State} (h : exec .startConversions s = .next t) (hok : t.err = .ok) :
    BusTimeOf s t (if s.dirCount = 0 then 960 else 2080) := by
  obtain ⟨p, u, hu, -, -, hframe, hsend, hquiet⟩ := startConversionsBroadcasts s
  rw [h] at hu
  cases hu
  have hp : p = true := by
    cases p
    · rw [hframe] at hok
      exact absurd hok Err.noConfusion
    · rfl
  split
  · exact busTimeOf_events (hquiet (.inr ‹_›)) (eventTime_reset p)
  · have hev := hsend hp (Nat.pos_of_ne_zero ‹_›)
    rw [List.cons_append] at hev
    exact busTimeOf_reset_slots 16 hev (onlySlots_append (onlySlots_writeSlots _) (onlySlots_writeSlots _))
      (by simp [writeSlots_length])

/-- A successful search pass: the reset, the 8 slots of the command and 64 triples. -/
theorem busTimeOf_search {s t : State} {first : Bool} (h : exec (searchCommand first) s = .next t) (hok : t.err = .ok) :
    BusTimeOf s t 14960 := by
  rw [exec_searchCommand] at h
  cases h
  obtain ⟨hp, hw, hwire, -, -⟩ := searchPass_of_ok s first hok
  obtain ⟨bs, htrace, -⟩ := passWalk_events s first hp hw
  rw [← hwire, passEvents, List.cons_append] at htrace
  exact busTimeOf_reset_slots (t := (s.searchPass first).2) 200 htrace
    (onlySlots_append (onlySlots_writeSlots _) (onlySlots_walkSlots _ _ _ _))
    (by simp [writeSlots_length, walkSlots_length])

/-- Settles O59: each command by the events its own statement gives. -/
theorem commandBusTimes : Obligations.CommandBusTimes := by
  intro s t
  refine ⟨fun h => ?_, fun b h => ?_, fun h => ?_, fun v h => ?_, fun h => ?_, fun i h hok => busTimeOf_select h hok,
    fun h hok => busTimeOf_startConversions h hok, fun first h hok => busTimeOf_search h hok, fun first h herr => ?_,
    fun v h => ?_, fun i hi h => ?_⟩
  · cases h
    exact busTimeOf_events (evs := [.reset s.wire.reset.1]) rfl (eventTime_reset s.wire.reset.1)
  · cases h
    exact busTimeOf_slots (evs := [.write b]) rfl (by simp [OnlySlots])
  · cases h
    exact busTimeOf_slots (evs := [.read s.wire.readBit.1]) rfl (by simp [OnlySlots])
  · cases h
    exact busTimeOf_slots (evs := writeSlots v) (writeByte_trace_writeSlots s.wire v) (onlySlots_writeSlots v)
  · cases h
    have htrace := readByte_trace s.wire
    rw [map_read_byteBits] at htrace
    exact busTimeOf_slots (evs := readSlots s.wire.readByte.1 8) htrace (onlySlots_readSlots _ 8)
  · obtain ⟨-, -, -, -, hexhausted, -⟩ := failedPassResetsSearchState s t first h (by rw [herr]; decide)
    obtain ⟨-, -, -, -, hwire⟩ := hexhausted herr
    exact busTimeOf_zero hwire
  · cases h
    exact busTimeOf_zero rfl
  · simp only [List.mem_cons, List.not_mem_nil, or_false] at hi
    obtain rfl | rfl | rfl | rfl | rfl | rfl := hi
    case inr.inr.inr.inl =>
      cases h
      exact busTimeOf_zero (show s.clockStep.wire = s.wire by rw [clockStep_frame])
    case inr.inr.inr.inr.inr =>
      obtain ⟨-, rfl⟩ := exec_outputUpdate_next h
      exact busTimeOf_zero rfl
    all_goals
      cases h
      exact busTimeOf_zero rfl

end Sys2Proof.Machine
end
